-- ==== Sys2Proof/Word.lean ====
section
/-! DEFINITION. The value types of spec/00_scope.md rule R7: fixed-width words, field elements, polynomials, register
numbers. Nothing here but names for types. -/

namespace Sys2Proof

/-- `Word64` of rule R7: a register of the window, and the value of one host access. -/
abbrev Word64 := BitVec 64

/-- `Word32` of rule R7: a command word. -/
abbrev Word32 := BitVec 32

/-- `Byte` of rule R7: one character code. -/
abbrev Byte := BitVec 8

/-- `Elem` of rules R3 and R7: a polynomial of degree below 359, held in 359 bits; bit `i` is the coefficient of `x^i`. -/
abbrev Elem := BitVec 359

/-- `Poly` of rule R7: a polynomial over GF(2) of any degree, as the natural number whose bit `i` is the coefficient of
`x^i` (rule R8's `nat` and `poly`, which are inverse to each other). -/
abbrev Poly := Nat

/-- The product accumulator of rule R25: ACC_W = 768 bits. -/
abbrev Accumulator := BitVec 768

/-- A field-register number (rule R46): all sixteen values name a register. -/
abbrev Reg := Fin 16

end Sys2Proof
end

