-- ==== Sys2Proof/Syntax.lean ====
section
/-! DEFINITION. The command set: one constructor per row of spec/opcode_table.json (rule R48), with the operands its
format uses (rules R46, R47), destination first, then source 1, then source 2. Every register number is legal
(rule R46), so every term is a command. -/

namespace Sys2Proof

/-- The sixteen commands of rule R48. -/
inductive Instr where
  | zero   (rd : Reg)
  | one    (rd : Reg)
  | mov    (rd rs1 : Reg)
  | eq     (rs1 rs2 : Reg)
  | add    (rd rs1 rs2 : Reg)
  | mul    (rd rs1 rs2 : Reg)
  | sqr    (rd rs1 : Reg)
  | powx   (rd rs1 : Reg)
  | powf   (rd rs1 rs2 : Reg)
  | inv    (rd rs1 : Reg)
  | trace  (rs1 : Reg)
  | hexb
  | hexput (imm8 : Byte)
  | hexe   (rd : Reg)
  | tohex  (rs1 : Reg)
  | hexget
  deriving DecidableEq, Repr

end Sys2Proof
end

