-- ==== Sys2Proof/WellFormed.lean ====
section
/-! DEFINITION. The checks of form: a command word's opcode and must-be-zero fields (rules R47, R48, R50), and a host
access's width, alignment and place in the window (rules R29, R32). A term of `Instr` needs no check of its own: its
register numbers are below 16 and its character is a byte by their types, which is all rule R46 asks.
The word checks are written field by field from the text of rules R45, R47 and R50; the decoder (Decode.lean) uses the
masks of the same tables, and an obligation says that the two agree. -/

namespace Sys2Proof

/-- The seven formats of rule R47. -/
inductive Format where
  | n | d | ds | dst | s | st | i
  deriving DecidableEq, Repr

/-- Rule R47's column "used fields": RD. -/
def Format.usesRd : Format → Bool
  | .d | .ds | .dst => true
  | .n | .s | .st | .i => false

/-- Rule R47's column "used fields": RS1. -/
def Format.usesRs1 : Format → Bool
  | .ds | .dst | .s | .st => true
  | .n | .d | .i => false

/-- Rule R47's column "used fields": RS2. -/
def Format.usesRs2 : Format → Bool
  | .dst | .st => true
  | .n | .d | .ds | .s | .i => false

/-- Rule R47's column "used fields": IMM8. -/
def Format.usesImm8 : Format → Bool
  | .i => true
  | .n | .d | .ds | .dst | .s | .st => false

/-- The format of each of the sixteen listed opcodes (rule R48); `none` for the 240 unlisted ones (rule R50). -/
def formatOfOpcode (op : Nat) : Option Format :=
  match op with
  | 0x01 | 0x02 | 0x22 => some .d
  | 0x03 | 0x12 | 0x13 | 0x15 => some .ds
  | 0x04 => some .st
  | 0x10 | 0x11 | 0x14 => some .dst
  | 0x16 | 0x23 => some .s
  | 0x20 | 0x24 => some .n
  | 0x21 => some .i
  | _ => none

/-- RD, bits 23:20, is zero unless the format uses it (rule R47). -/
def rdFieldOk (fmt : Format) (w : Word32) : Bool := fmt.usesRd || w.toNat / 2 ^ 20 % 16 == 0

/-- RS1, bits 19:16, is zero unless the format uses it (rule R47). -/
def rs1FieldOk (fmt : Format) (w : Word32) : Bool := fmt.usesRs1 || w.toNat / 2 ^ 16 % 16 == 0

/-- RS2, bits 15:12, is zero unless the format uses it (rule R47). -/
def rs2FieldOk (fmt : Format) (w : Word32) : Bool := fmt.usesRs2 || w.toNat / 2 ^ 12 % 16 == 0

/-- Z, bits 11:8, is "always zero" (rule R45). -/
def zFieldOk (w : Word32) : Bool := w.toNat / 2 ^ 8 % 16 == 0

/-- IMM8, bits 7:0, is zero unless the format uses it (rule R47). -/
def imm8FieldOk (fmt : Format) (w : Word32) : Bool := fmt.usesImm8 || w.toNat % 256 == 0

/-- A command word that rule R50 does not call illegal: its OP, bits 31:24, is listed, and every field its format does
not use is zero. -/
def wordWellFormed (w : Word32) : Bool :=
  match formatOfOpcode (w.toNat / 2 ^ 24) with
  | none => false
  | some fmt => rdFieldOk fmt w && rs1FieldOk fmt w && rs2FieldOk fmt w && zFieldOk w && imm8FieldOk fmt w

/-- The only access width the block defines is 64 bits (rule R32). -/
def accessWidthOk (size : Nat) : Bool := size == 8

/-- The only accesses the block defines are at offsets that are multiples of 8 (rule R32). -/
def accessAlignedOk (offset : Nat) : Bool := offset % 8 == 0

/-- The window is 4 KiB (rule R29). -/
def accessInWindow (offset : Nat) : Bool := offset < 0x1000

end Sys2Proof
end

