-- ==== Sys2Proof/Decode.lean ====
section
/-! DEFINITION. The decoder of rule R49, total on every 32-bit word (`none` is ILLEGAL), and the encoder, both written
from the tables of rules R45, R47 and R48. -/

namespace Sys2Proof

/-- Rule R47's column "must-match mask". -/
def Format.mask : Format → Word32
  | .n => 0xFFFFFFFF#32
  | .d => 0xFF0FFFFF#32
  | .ds => 0xFF00FFFF#32
  | .dst => 0xFF000FFF#32
  | .s => 0xFFF0FFFF#32
  | .st => 0xFFF00FFF#32
  | .i => 0xFFFFFF00#32

/-- The operand fields of a command word (rule R46). -/
structure Fields where
  rd : Reg
  rs1 : Reg
  rs2 : Reg
  imm8 : Byte
  deriving DecidableEq, Repr

/-- The four-bit register number at bits `lo + 3 : lo` of a command word. -/
def regField (lo : Nat) (w : Word32) : Reg := Fin.ofNat 16 (w.toNat / 2 ^ lo)

/-- Rule R46: rd = w[23:20], rs1 = w[19:16], rs2 = w[15:12], imm8 = w[7:0]. -/
def fieldsOf (w : Word32) : Fields :=
  { rd := regField 20 w, rs1 := regField 16 w, rs2 := regField 12 w, imm8 := w.setWidth 8 }

/-- A row of rule R48's map: format, the bits that must match, and the command it stands for. -/
structure Row where
  format : Format
  bits : Word32
  command : Fields → Instr

/-- The opcode map of rule R48, in its order. -/
def rows : List Row := [
  ⟨.d,   0x01000000#32, fun k => .zero k.rd⟩,
  ⟨.d,   0x02000000#32, fun k => .one k.rd⟩,
  ⟨.ds,  0x03000000#32, fun k => .mov k.rd k.rs1⟩,
  ⟨.st,  0x04000000#32, fun k => .eq k.rs1 k.rs2⟩,
  ⟨.dst, 0x10000000#32, fun k => .add k.rd k.rs1 k.rs2⟩,
  ⟨.dst, 0x11000000#32, fun k => .mul k.rd k.rs1 k.rs2⟩,
  ⟨.ds,  0x12000000#32, fun k => .sqr k.rd k.rs1⟩,
  ⟨.ds,  0x13000000#32, fun k => .powx k.rd k.rs1⟩,
  ⟨.dst, 0x14000000#32, fun k => .powf k.rd k.rs1 k.rs2⟩,
  ⟨.ds,  0x15000000#32, fun k => .inv k.rd k.rs1⟩,
  ⟨.s,   0x16000000#32, fun k => .trace k.rs1⟩,
  ⟨.n,   0x20000000#32, fun _ => .hexb⟩,
  ⟨.i,   0x21000000#32, fun k => .hexput k.imm8⟩,
  ⟨.d,   0x22000000#32, fun k => .hexe k.rd⟩,
  ⟨.s,   0x23000000#32, fun k => .tohex k.rs1⟩,
  ⟨.n,   0x24000000#32, fun _ => .hexget⟩]

/-- Rule R49's test: `(w AND mask(row.format)) = row.match`. -/
def Row.matchesWord (r : Row) (w : Word32) : Bool := w &&& r.format.mask == r.bits

/-- The decoder of rule R49: the row that matches, with its fields; `none` is ILLEGAL (rule R50). -/
def decode (w : Word32) : Option Instr :=
  (rows.find? fun r => r.matchesWord w).map fun r => r.command (fieldsOf w)

/-- A command word from its fields (rule R45): OP, RD, RS1, RS2, four zero bits, IMM8. -/
def packWord (op : BitVec 8) (rd rs1 rs2 : Reg) (imm8 : Byte) : Word32 :=
  op ++ BitVec.ofFin (w := 4) rd ++ BitVec.ofFin (w := 4) rs1 ++ BitVec.ofFin (w := 4) rs2 ++ 0#4 ++ imm8

/-- The command word of a command (rules R45, R47, R48); a field the format does not use is zero. -/
def encode : Instr → Word32
  | .zero rd => packWord 0x01 rd 0 0 0
  | .one rd => packWord 0x02 rd 0 0 0
  | .mov rd rs1 => packWord 0x03 rd rs1 0 0
  | .eq rs1 rs2 => packWord 0x04 0 rs1 rs2 0
  | .add rd rs1 rs2 => packWord 0x10 rd rs1 rs2 0
  | .mul rd rs1 rs2 => packWord 0x11 rd rs1 rs2 0
  | .sqr rd rs1 => packWord 0x12 rd rs1 0 0
  | .powx rd rs1 => packWord 0x13 rd rs1 0 0
  | .powf rd rs1 rs2 => packWord 0x14 rd rs1 rs2 0
  | .inv rd rs1 => packWord 0x15 rd rs1 0 0
  | .trace rs1 => packWord 0x16 0 rs1 0 0
  | .hexb => packWord 0x20 0 0 0 0
  | .hexput imm8 => packWord 0x21 0 0 0 imm8
  | .hexe rd => packWord 0x22 rd 0 0 0
  | .tohex rs1 => packWord 0x23 0 rs1 0 0
  | .hexget => packWord 0x24 0 0 0 0

/-- The command word whose bits, numbered as spec/opcode_table.json numbers them, are `w`; bits from `nbits` up are
zero. A command is one 32-bit word and nothing more (rules R45, R51). -/
def tableWord (nbits w : Nat) : Word32 := BitVec.ofNat 32 (w % 2 ^ nbits)

/-- The command this decoder reads from an opcode-table word. -/
def decodeTableWord (nbits w : Nat) : Option Instr := decode (tableWord nbits w)

end Sys2Proof
end

