-- ==== Sys2Proof/Config.lean ====
section
/-! DEFINITION. What an implementation fixes and the spec leaves OPEN (rule R5), and the free values the spec calls
unspecified (spec/93_implementation_defined.md U2, U10). None of them has a body, so no proof can see a value. -/

namespace Sys2Proof

/-- HEX_OUT_UPPER (rule R5, decision D22): the letter case of `to_hex`. OPEN: "a model must not pick one silently". -/
opaque Config.hexOutUpper : Bool

/-- The page number of the register window. OPEN (rule R29, decision D14). -/
opaque Config.corePage : Nat

/-- CORE_BASE (rules R5 and R29): the window's base address, which "must be a multiple of 0x1000"; it is one by
construction. -/
def Config.coreBase : Nat := 0x1000 * Config.corePage

/-- The unspecified 64-bit value a host read of S or of a field-register word returns while BUSY = 1
(rules R37, R38, R40; U2: "an unconstrained 64-bit draw"). The argument is the State's draw counter. -/
opaque Config.freeRead : Nat → Word64

/-- The unspecified value a datapath register holds after a command that used it (rules R25 to R27; U10: "any value,
and never observable"). Arguments: the register's width, the State's draw counter, the register's own number. -/
opaque Config.freeBits (width : Nat) (draw : Nat) (register : Nat) : BitVec width

end Sys2Proof
end

