-- ==== Sys2Proof/Machine/State.lean ====
section
/-! DEFINITION. The machine's state as plain data, the inputs that drive it, and the reasons a step can stop.
Every piece of state of spec/10_state.md is a field (rules R9 to R27); the last four fields are the model's own. -/

namespace Sys2Proof.Machine

/-- The block has no fault: every error of a command is a code in STATUS.ERR and the engine goes on (rules R95, R96,
R102), and "a model never needs stuck for this block" (spec/93_implementation_defined.md). So there is no constructor,
and no step ever answers a fault. Safe: nothing stops here. -/
inductive Fault where
  deriving DecidableEq, Repr

/-- Why the model takes no step. All but the first are raised by the bus front end (Machine/Bus.lean) for host accesses
that the spec says a model refuses; no command raises one. -/
inductive Refusal where
  /-- Raised by exec's arm of a command that has no meaning yet (no arm does so now). Safe: the run stops. -/
  | notModelled (mnemonic : String)
  /-- A host access that is not 64 bits wide (rule R32, U1). Safe: "the access has no meaning", the run has no end state. -/
  | accessWidth
  /-- A host access at an offset that is no multiple of 8 (rule R32, U1). Safe, as above. -/
  | accessMisaligned
  /-- A host access at an address outside the 4 KiB window (rules R29, R30: the rest is the platform's). Safe. -/
  | accessOutsideWindow
  /-- A host access made while reset is asserted (rule R108, U3). Safe: "the block defines no host access". -/
  | accessDuringReset
  deriving DecidableEq, Repr

/-- The error codes of rule R95 other than OK. -/
inductive CoreError where
  | illegalCommand
  | inverseOfZero
  | malformedInput
  deriving DecidableEq, Repr

/-- Where a host access goes: at an offset from CORE_BASE, as the `W` and `R` lines of rule R54 name it, or at an absolute
address, as `MemRead` and `MemWrite` of rule R6 do. -/
inductive HostAddr where
  | window (offset : Nat)
  | absolute (addr : Nat)
  deriving DecidableEq, Repr

/-- One thing the world outside the registers does next: a host access (rules R32, R54), the reset input (rule R108), or
the schedule giving the engine its turn (rules R4, R52; U14: every interleaving is admitted, so the turns stand in the
list as data). -/
inductive Input where
  | write (addr : HostAddr) (size : Nat) (value : Word64)
  | read (addr : HostAddr) (size : Nat)
  | poll
  | engineTurn
  | resetAssert
  | resetRelease
  deriving DecidableEq, Repr

/-- The datapath registers of rules R25 to R27. They live only inside one command: no rule reads one across commands and
no host access shows one, so their values between commands are unspecified (U10). -/
structure Datapath where
  /-- The product accumulator, 768 bits (rule R25). -/
  acc : Accumulator
  /-- The inverter's remainder r0, 360 bits, since its first value is f itself (rule R26). -/
  r0 : BitVec 360
  /-- The inverter's remainder r1 (rule R26). -/
  r1 : Elem
  /-- The inverter's cofactor t0 (rule R26). -/
  t0 : Elem
  /-- The inverter's cofactor t1 (rule R26). -/
  t1 : Elem
  /-- The quotient of one division (rule R26). -/
  q : Elem
  /-- The remainder of one division (rule R26). -/
  r : Elem
  /-- The exponentiation datapath's running result (rule R27). -/
  powResult : Elem
  /-- The exponentiation datapath's bit index, 0 to 358 (rules R27, R71). -/
  powIndex : BitVec 9
  /-- The trace accumulator's running sum T (rules R27, R81). -/
  traceSum : Elem
  /-- The trace accumulator's current conjugate C (rules R27, R81). -/
  traceConj : Elem
  deriving DecidableEq, Repr

/-- The state of the block and of what drives it. -/
structure State where
  /-- F[0] to F[15], each one Elem (rules R9 to R12). -/
  f : Vector Elem 16
  /-- X, the integer exponent (rule R15). -/
  x : Word64
  /-- S, the scalar result (rule R16). -/
  sreg : Word64
  /-- STATUS.OVR, the sticky overrun flag (rule R19). -/
  ovr : Bool
  /-- STATUS.ERR, the completion code of the last command (rule R20). -/
  err : BitVec 4
  /-- PEND, the one-deep command latch (rule R22): a valid bit and a word. STATUS.BUSY is its valid bit (rule R18). -/
  pend : Option Word32
  /-- HIN, the value of the digits received so far (rule R23). -/
  hin : Elem
  /-- HANY, a valid digit has been received (rule R23). -/
  hany : Bool
  /-- HBAD, an invalid character has been received (rule R23). -/
  hbad : Bool
  /-- HOVAL, the element being emitted (rule R24). -/
  hoval : Elem
  /-- HOLEN, the string's length in characters, 0 to 90 (rule R24). -/
  holen : BitVec 7
  /-- HOPTR, how many characters have been emitted (rule R24). -/
  hoptr : BitVec 7
  /-- The datapath registers (rules R25 to R27). -/
  dp : Datapath
  /-- The level of the reset input (rule R108): true while it is asserted. -/
  inReset : Bool
  /-- The model's own: what the host, the reset input and the schedule do next, first first (rules R4, R114). -/
  inputs : List Input
  /-- The model's own, on the host's side: the values its reads returned, latest first (rule R33). -/
  reads : List Word64
  /-- The model's own: how many unspecified values have been drawn (Config.freeRead, Config.freeBits). -/
  draws : Nat
  deriving DecidableEq, Repr

/-- The datapath registers at reset: "unspecified; never observable" (rule R28). DESIGN CHOICE: zero
(notes/assumptions/3.md). -/
def Datapath.reset : Datapath :=
  { acc := 0, r0 := 0, r1 := 0, t0 := 0, t1 := 0, q := 0, r := 0, powResult := 0, powIndex := 0, traceSum := 0,
    traceConj := 0 }

/-- The machine right after reset (rules R28, R108): every register 0, PEND empty, reset released. The inputs, the reads
and the draws are the model's own: none yet. -/
def State.reset : State :=
  { f := Vector.replicate 16 0, x := 0, sreg := 0, ovr := false, err := 0, pend := none,
    hin := 0, hany := false, hbad := false, hoval := 0, holen := 0, hoptr := 0,
    dp := Datapath.reset, inReset := false, inputs := [], reads := [], draws := 0 }

end Sys2Proof.Machine
end

