-- ==== Sys2Proof/Machine/Flags.lean ====
section
/-! DEFINITION. The fields of STATUS (rules R17 to R20): BUSY, OVR and ERR, the word a host read returns, and the writes
to each. -/

namespace Sys2Proof.Machine

/-- STATUS.BUSY reads 1 exactly when PEND is full (rule R18). -/
def State.busy (s : State) : Bool := s.pend.isSome

/-- The word a read of STATUS returns (rules R17, R35): the byte {ERR[3:0], 0b00, OVR, BUSY}, zero-extended. -/
def State.statusWord (s : State) : Word64 :=
  (s.err ++ 0#2 ++ BitVec.ofBool s.ovr ++ BitVec.ofBool s.busy).setWidth 64

/-- The numeric codes of rule R95. -/
def CoreError.code : CoreError → BitVec 4
  | .illegalCommand => 1
  | .inverseOfZero => 2
  | .malformedInput => 3

/-- STATUS.ERR <- v (rule R20). -/
def State.setErr (s : State) (v : BitVec 4) : State := { s with err := v }

/-- STATUS.OVR <- 1: a host write was dropped (rules R19, R40). -/
def State.setOvr (s : State) : State := { s with ovr := true }

/-- A host write of `v` to STATUS: OVR is cleared where bit 1 is set, and nothing else happens (rules R19, R35). -/
def State.writeStatus (s : State) (v : Word64) : State := if v.getLsbD 1 then { s with ovr := false } else s

end Sys2Proof.Machine
end

