-- ==== Sys2Proof/Machine/Field.lean ====
section
/-! DEFINITION. Arithmetic of GF(2^359) as the datapaths compute it: carry-less product and reduction sweep
(spec/41_mul.md), Frobenius spread (42), square-and-multiply (43), extended Euclid (44), trace (45). Pure functions. -/

namespace Sys2Proof.Machine

/-- `k x`. The match makes Lean's kernel evaluate `x` to a numeral before it goes on, so that loops over these values
run; as a function it is application (`strict_eq`). -/
def strict {α : Type} (x : Nat) (k : Nat → α) : α :=
  match x with
  | 0 => k 0
  | n + 1 => k (n + 1)

/-- `k a`, evaluating `a` first (see `strict`). -/
def strictElem {α : Type} (a : Elem) (k : Elem → α) : α :=
  strict a.toNat fun n => k (BitVec.ofNat 359 n)

/-- The reduction polynomial f = x^359 + x^18 + x^4 + x^2 + 1 (rules R2, R5). -/
def fPoly : Poly := 2 ^ 359 + 2 ^ 18 + 2 ^ 4 + 2 ^ 2 + 2 ^ 0

/-- The product of `p` and the low `n` coefficients of `q`: for every set bit j < n of q, XOR of `p << j`. -/
def clmulUpTo (p q : Poly) : Nat → Poly
  | 0 => 0
  | n + 1 => clmulUpTo p q n ^^^ (if q.testBit n then p <<< n else 0)

/-- The carry-less product of rule R62: the XOR of x^(i+j) over all set bits i of a and j of b. Its degree is at most 716,
so it fits the 768-bit accumulator. -/
def clmul (a b : Elem) : Poly := clmulUpTo a.toNat b.toNat 359

/-- The iterations k = 358 + n down to 359 of the sweep of rule R63: where coefficient k is set, XOR f << (k − 359), which
clears it and toggles k−341, k−355, k−357 and k−359 once each (spec/90_conflicts.md C1). -/
def sweep : Nat → Poly → Poly
  | 0, acc => acc
  | n + 1, acc => strict acc fun acc => sweep n (if acc.testBit (359 + n) then acc ^^^ (fPoly <<< n) else acc)

/-- The reduction of rule R63: all of k = 716 down to 359, then coefficients 358:0. One downward pass, so the bits an
iteration sets at 359 or above are reduced by a later one (spec/90_conflicts.md C2). -/
def reduce (p : Poly) : Elem := BitVec.ofNat 359 (sweep 358 p)

/-- The field product reduce(clmul(a, b)) (rule R65). -/
def fmul (a b : Elem) : Elem :=
  strictElem a fun a => strictElem b fun b => reduce (clmul a b)

/-- The low `n` coefficients of `a` moved to twice their places. -/
def spreadUpTo (a : Poly) : Nat → Poly
  | 0 => 0
  | n + 1 => spreadUpTo a n ^^^ (if a.testBit n then 1 <<< (2 * n) else 0)

/-- The Frobenius spread of rule R67: coefficient i goes to position 2i. -/
def spread (a : Elem) : Poly := spreadUpTo a.toNat 359

/-- The field square reduce(spread(a)) (rule R68). -/
def fsqr (a : Elem) : Elem := strictElem a fun a => reduce (spread a)

/-- The iterations i = n − 1 down to 0 of rule R71's loop, from the running result `r`. -/
def powLoop (a : Elem) (e : Nat) : Nat → Elem → Elem
  | 0, r => r
  | i + 1, r => strictElem (fsqr r) fun r => powLoop a e i (if e.testBit i then fmul r a else r)

/-- pow_core(a, e, W) of rule R71: square and multiply over the W bits of e, most significant first. -/
def powCore (a : Elem) (e width : Nat) : Elem := powLoop a e width 1

/-- deg(p) of rule R6: the largest i with p[i] = 1, and −1 for p = 0. -/
def deg (p : Poly) : Int := if p = 0 then -1 else (Nat.log2 p : Int)

/-- The loop of rule R76 with quotient `q` so far and what is left of the dividend, for at most `fuel` iterations. -/
def pdivLoop (d : Poly) : Nat → Poly → Poly → Poly × Poly
  | 0, q, n => (q, n)
  | fuel + 1, q, n =>
    if n ≠ 0 ∧ deg d ≤ deg n then
      strict (q ^^^ 1 <<< (deg n - deg d).toNat) fun q =>
        strict (n ^^^ d <<< (deg n - deg d).toNat) fun n => pdivLoop d fuel q n
    else (q, n)

/-- pdivmod(n, d) of rule R76. Each iteration lowers deg(n), so deg(n) + 1 iterations are enough. -/
def pdivmod (n d : Poly) : Poly × Poly := pdivLoop d (Nat.log2 n + 1) 0 n

/-- The loop of rule R77 on the remainders (r0, r1) and the cofactors (t0, t1), for at most `fuel` iterations. -/
def invLoop : Nat → Poly → Poly → Elem → Elem → Elem
  | 0, _, _, _, t1 => t1
  | fuel + 1, r0, r1, t0, t1 =>
    if r1 = 1 then t1
    else
      let qr := pdivmod r0 r1
      strict qr.1 fun q => strict qr.2 fun r =>
        strictElem (t0 ^^^ fmul (BitVec.ofNat 359 q) t1) fun t => invLoop fuel r1 r t1 t

/-- inv_euclid(a) of rule R77, from (f, a) and (0, 1). The loop runs at most 358 times (rule R78 item 2). -/
def invEuclid (a : Elem) : Elem := invLoop 358 fPoly a.toNat 0 1

/-- The remaining `n` iterations of rule R81's loop, from accumulator `t` and conjugate `c`. -/
def traceLoop : Nat → Elem → Elem → Elem
  | 0, t, _ => t
  | n + 1, t, c => strictElem (t ^^^ c) fun t => strictElem (fsqr c) fun c => traceLoop n t c

/-- The sum T of the 359 conjugates of a (rule R81). -/
def traceSum (a : Elem) : Elem := traceLoop 359 0 a

end Sys2Proof.Machine
end

