-- ==== Sys2Proof/Machine/HexCodec.lean ====
section
/-! DEFINITION. Characters, digits and nibbles of the hex codec (spec/46_hex.md, rules R83 to R85), and one step of the
parser's Horner rule (rule R90). Pure functions. -/

namespace Sys2Proof.Machine

/-- The digit value of a character (rule R83); `none` for every byte that is none of the 22 valid ones. -/
def digitValue (c : Byte) : Option (BitVec 4) :=
  if 0x30 ≤ c.toNat ∧ c.toNat ≤ 0x39 then some (BitVec.ofNat 4 (c.toNat - 0x30))
  else if 0x61 ≤ c.toNat ∧ c.toNat ≤ 0x66 then some (BitVec.ofNat 4 (c.toNat - 0x61 + 10))
  else if 0x41 ≤ c.toNat ∧ c.toNat ≤ 0x46 then some (BitVec.ofNat 4 (c.toNat - 0x41 + 10))
  else none

/-- nib(a, j) of rule R84: bits 4j+3 down to 4j, where bits from 359 up are 0. -/
def nib (a : Elem) (j : Nat) : BitVec 4 := a.extractLsb' (4 * j) 4

/-- nlen(a) of rule R84: the number of hex digits, 1 for a = 0. -/
def nlen (a : Elem) : Nat := if a = 0 then 1 else Nat.log2 a.toNat / 4 + 1

/-- hexchar(v) of rule R85, with HEX_OUT_UPPER as its first argument. -/
def hexChar (upper : Bool) (v : BitVec 4) : Byte :=
  if v.toNat ≤ 9 then BitVec.ofNat 8 (0x30 + v.toNat)
  else if upper then BitVec.ofNat 8 (0x41 + (v.toNat - 10))
  else BitVec.ofNat 8 (0x61 + (v.toNat - 10))

/-- reduce((h << 4) ⊕ zext(v)), rule R90's new HIN. -/
def hornerStep (h : Elem) (v : BitVec 4) : Elem := reduce (h.toNat <<< 4 ^^^ v.toNat)

end Sys2Proof.Machine
end

