-- ==== Sys2Proof/Machine/Operands.lean ====
section
/-! DEFINITION. The operand forms of rule R46: a field register as source and as destination, X and S, and the number a
register holds (rule R8). -/

namespace Sys2Proof.Machine

/-- F[r] as a source operand. -/
def State.readF (s : State) (r : Reg) : Elem := s.f[r]

/-- F[r] as a destination: F[r] <- a, every other field register kept. -/
def State.writeF (s : State) (r : Reg) (a : Elem) : State := { s with f := s.f.set r a }

/-- S as a destination (rule R16). -/
def State.writeS (s : State) (v : Word64) : State := { s with sreg := v }

/-- nat(X), the unsigned integer exponent of POWX (rules R15, R72). -/
def State.exponentX (s : State) : Nat := s.x.toNat

/-- nat(F[r]), the exponent of POWF: coefficient i has weight 2^i (rules R8, R73). -/
def State.exponentF (s : State) (r : Reg) : Nat := (s.readF r).toNat

/-- A boolean or a bit as a scalar result: 1 or 0, zero-extended (rules R59, R81). -/
def scalarOfBool (b : Bool) : Word64 := if b then 1 else 0

end Sys2Proof.Machine
end

