-- ==== Sys2Proof/Machine/Ops.lean ====
section
/-! DEFINITION. The shared operations of commands: completing with OK, raising an error (this hardware's whole exception
entry, rules R96 and R102; there is no return from one, rule R103), the hex input state, the datapath registers a command
leaves behind, emptying PEND, and reset. -/

namespace Sys2Proof.Machine

/-- A command that succeeds writes STATUS.ERR <- 0 beside the writes of its own rule (rule R96). -/
def State.complete (s : State) : State := s.setErr 0

/-- raise CoreError(e) (rules R6, R96, R102): STATUS.ERR takes the code. No state is saved, no mode changes, nothing is
vectored and the engine does not stop; the writes a rule lists for its error case are made by the command itself. -/
def State.raise (s : State) (e : CoreError) : State := s.setErr e.code

/-- PEND <- empty: STATUS.BUSY reads 0 from here on (rule R52). -/
def State.retire (s : State) : State := { s with pend := none }

/-- HIN, HANY and HBAD <- 0: the state HEXB and HEXE leave (rules R23, R89, R92). -/
def State.clearHexInput (s : State) : State := { s with hin := 0, hany := false, hbad := false }

/-- What the accumulator holds after a command that used it is unspecified (rule R25, U10): a free value. -/
def State.spendAccumulator (s : State) : State :=
  { s with
    dp := { s.dp with acc := Config.freeBits 768 s.draws 0 }
    draws := s.draws + 1 }

/-- After POWX or POWF the accumulator, the running result and the bit index are unspecified (rules R25, R27, U10). -/
def State.spendPow (s : State) : State :=
  { s with
    dp := { s.dp with
      acc := Config.freeBits 768 s.draws 0
      powResult := Config.freeBits 359 s.draws 7
      powIndex := Config.freeBits 9 s.draws 8 }
    draws := s.draws + 1 }

/-- After INV the accumulator and the inverter's registers are unspecified (rules R25, R26, U10). -/
def State.spendInv (s : State) : State :=
  { s with
    dp := { s.dp with
      acc := Config.freeBits 768 s.draws 0
      r0 := Config.freeBits 360 s.draws 1
      r1 := Config.freeBits 359 s.draws 2
      t0 := Config.freeBits 359 s.draws 3
      t1 := Config.freeBits 359 s.draws 4
      q := Config.freeBits 359 s.draws 5
      r := Config.freeBits 359 s.draws 6 }
    draws := s.draws + 1 }

/-- After TRACE the accumulator, the running sum and the conjugate are unspecified (rules R25, R27, U10). -/
def State.spendTrace (s : State) : State :=
  { s with
    dp := { s.dp with
      acc := Config.freeBits 768 s.draws 0
      traceSum := Config.freeBits 359 s.draws 9
      traceConj := Config.freeBits 359 s.draws 10 }
    draws := s.draws + 1 }

/-- The reset input takes the level `asserted`: every register of the block holds its reset value (rules R28, R108), a
command in progress is abandoned; what the host will do and what it has read is not the block's and stays. -/
def State.applyReset (s : State) (asserted : Bool) : State :=
  { State.reset with inReset := asserted, inputs := s.inputs, reads := s.reads, draws := s.draws }

end Sys2Proof.Machine
end

