-- ==== Sys2Proof/Machine/Window.lean ====
section
/-! DEFINITION. The register window (spec/20_memory.md): which register stands at an offset (rule R30), what reading it
returns and what writing it does (rules R34 to R40), and the byte lanes (rule R31). -/

namespace Sys2Proof.Machine

/-- What stands at an 8-byte-aligned offset of the window (rule R30). -/
inductive WindowReg where
  | cmd
  | status
  | x
  | s
  | fword (r : Reg) (j : Fin 6)
  | reserved
  deriving DecidableEq, Repr

/-- The map of rule R30. F[r] word j is at 0x100 + 0x40·r + 8·j; words 6 and 7 of each slot are reserved. -/
def regAt (offset : Nat) : WindowReg :=
  if offset = 0x000 then .cmd
  else if offset = 0x008 then .status
  else if offset = 0x010 then .x
  else if offset = 0x018 then .s
  else if 0x100 ≤ offset ∧ offset < 0x500 then
    if h : offset % 0x40 / 8 < 6 then .fword (Fin.ofNat 16 ((offset - 0x100) / 0x40)) ⟨offset % 0x40 / 8, h⟩
    else .reserved
  else .reserved

/-- The offset of F[r] word j (rule R31). -/
def fwordOffset (r : Reg) (j : Fin 6) : Nat := 0x100 + 0x40 * r.val + 8 * j.val

/-- Word j of an element, a[64j+63 : 64j], where bits from 359 up read 0 (rules R10, R38). -/
def elemWord (a : Elem) (j : Fin 6) : Word64 := a.extractLsb' (64 * j.val) 64

/-- The element with word j replaced: only that word's bits change, and bits from 359 up are discarded, not reduced
(rule R38). -/
def setElemWord (a : Elem) (j : Fin 6) (v : Word64) : Elem :=
  (a &&& ~~~((BitVec.allOnes 64).setWidth 359 <<< (64 * j.val))) ||| (v.setWidth 359 <<< (64 * j.val))

/-- The registers whose host read is unspecified while BUSY = 1 (rules R37, R38, R40): S and the field-register words. -/
def WindowReg.isResult : WindowReg → Bool
  | .s => true
  | .fword _ _ => true
  | .cmd | .status | .x | .reserved => false

/-- What a read of a register returns when it is specified (rules R34 to R39). -/
def State.readReg (st : State) : WindowReg → Word64
  | .cmd => 0
  | .status => st.statusWord
  | .x => st.x
  | .s => st.sreg
  | .fword r j => elemWord (st.readF r) j
  | .reserved => 0

/-- A host read: the value goes to the host and no register changes (rule R33). While BUSY = 1 a read of S or of a
field-register word returns an unspecified value (rules R37, R38, R40, U2). -/
def State.hostRead (st : State) (reg : WindowReg) : State :=
  if st.busy && reg.isResult then
    { st with reads := Config.freeRead st.draws :: st.reads, draws := st.draws + 1 }
  else { st with reads := st.readReg reg :: st.reads }

/-- A host write that is dropped, with OVR set, while BUSY = 1 (rule R40); `accepted` is its effect otherwise. -/
def State.unlessBusy (st : State) (accepted : State) : State := if st.busy then st.setOvr else accepted

/-- A host write of `v` (rules R34 to R40). -/
def State.hostWrite (st : State) (reg : WindowReg) (v : Word64) : State :=
  match reg with
  | .cmd => st.unlessBusy { st with pend := some (v.setWidth 32) }
  | .status => st.writeStatus v
  | .x => st.unlessBusy { st with x := v }
  | .s => st
  | .fword r j => st.unlessBusy (st.writeF r (setElemWord (st.readF r) j v))
  | .reserved => st

/-- The byte at window byte address `a` when it is specified: byte b of the register at offset o holds its bits
8b+7 : 8b, little-endian (rule R31). -/
def State.byteAt (st : State) (a : Nat) : Byte := (st.readReg (regAt (a / 8 * 8))).extractLsb' (8 * (a % 8)) 8

end Sys2Proof.Machine
end

