-- ==== Sys2Proof/Machine/Bus.lean ====
section
/-! DEFINITION. The bus front end: where an access goes (rule R29), which accesses a model refuses (rules R32, R108; U1,
U3), and the two accesses. -/

namespace Sys2Proof.Machine

/-- The window offset an address names; `none` outside the 4 KiB window (rule R29). -/
def HostAddr.offset? : HostAddr → Option Nat
  | .window o => if accessInWindow o then some o else none
  | .absolute a =>
    if Config.coreBase ≤ a ∧ accessInWindow (a - Config.coreBase) = true then some (a - Config.coreBase) else none

/-- One host access: refused while reset is asserted (rule R108), and unless it is 64 bits wide at an offset of the
window that is a multiple of 8 (rule R32); else `effect` on the register it names. -/
def State.access (st : State) (addr : HostAddr) (size : Nat) (effect : WindowReg → State) :
    Host.Outcome State Fault Refusal :=
  if st.inReset then .refused .accessDuringReset
  else if !accessWidthOk size then .refused .accessWidth
  else
    match addr.offset? with
    | none => .refused .accessOutsideWindow
    | some o => if accessAlignedOk o then .next (effect (regAt o)) else .refused .accessMisaligned

/-- MemRead(addr, size) (rules R6, R32). -/
def State.memRead (st : State) (addr : HostAddr) (size : Nat) : Host.Outcome State Fault Refusal :=
  st.access addr size st.hostRead

/-- MemWrite(addr, size, v) (rules R6, R32). -/
def State.memWrite (st : State) (addr : HostAddr) (size : Nat) (v : Word64) : Host.Outcome State Fault Refusal :=
  st.access addr size fun reg => st.hostWrite reg v

end Sys2Proof.Machine
end

