-- ==== Sys2Proof/Machine/Arith.lean ====
section
/-! DEFINITION. MUL, SQR, POWX, POWF, INV, TRACE (spec/41_mul.md to spec/45_trace.md). Each reads its sources before it
writes (rule R53) and leaves the datapath registers it used unspecified (rules R25 to R27). -/

namespace Sys2Proof.Machine

/-- MUL (rule R65): F[rd] <- reduce(clmul(F[rs1], F[rs2])). -/
def execMul (rd rs1 rs2 : Reg) (s : State) : Host.Outcome State Fault Refusal :=
  .next (s.spendAccumulator.writeF rd (fmul (s.readF rs1) (s.readF rs2))).complete

/-- SQR (rule R68): F[rd] <- reduce(spread(F[rs1])). -/
def execSqr (rd rs1 : Reg) (s : State) : Host.Outcome State Fault Refusal :=
  .next (s.spendAccumulator.writeF rd (fsqr (s.readF rs1))).complete

/-- POWX (rule R72): F[rd] <- pow_core(F[rs1], nat(X), 64). -/
def execPowx (rd rs1 : Reg) (s : State) : Host.Outcome State Fault Refusal :=
  .next (s.spendPow.writeF rd (powCore (s.readF rs1) s.exponentX 64)).complete

/-- POWF (rule R73): F[rd] <- pow_core(F[rs1], nat(F[rs2]), 359). -/
def execPowf (rd rs1 rs2 : Reg) (s : State) : Host.Outcome State Fault Refusal :=
  .next (s.spendPow.writeF rd (powCore (s.readF rs1) (s.exponentF rs2) 359)).complete

/-- INV (rules R75, R98): F[rd] <- inv_euclid(F[rs1]); of zero it raises InverseOfZero and changes nothing else. -/
def execInv (rd rs1 : Reg) (s : State) : Host.Outcome State Fault Refusal :=
  if s.readF rs1 = 0 then .next (s.raise .inverseOfZero)
  else .next (s.spendInv.writeF rd (invEuclid (s.readF rs1))).complete

/-- TRACE (rule R81): S <- T[0], where T is the sum of the 359 conjugates of F[rs1]. -/
def execTrace (rs1 : Reg) (s : State) : Host.Outcome State Fault Refusal :=
  .next (s.spendTrace.writeS (scalarOfBool ((traceSum (s.readF rs1)).getLsbD 0))).complete

end Sys2Proof.Machine
end

