-- ==== Sys2Proof/Machine/Basic.lean ====
section
/-! DEFINITION. ZERO, ONE, MOV, EQ, ADD (spec/40_basic.md, rules R56 to R60). -/

namespace Sys2Proof.Machine

/-- ZERO (rule R56): F[rd] <- 0. -/
def execZero (rd : Reg) (s : State) : Host.Outcome State Fault Refusal :=
  .next (s.writeF rd 0).complete

/-- ONE (rule R57): F[rd] <- 1. -/
def execOne (rd : Reg) (s : State) : Host.Outcome State Fault Refusal :=
  .next (s.writeF rd 1).complete

/-- MOV (rule R58): F[rd] <- F[rs1]. -/
def execMov (rd rs1 : Reg) (s : State) : Host.Outcome State Fault Refusal :=
  .next (s.writeF rd (s.readF rs1)).complete

/-- EQ (rule R59): S <- 1 if all 359 bits of F[rs1] and F[rs2] agree, else 0. -/
def execEq (rs1 rs2 : Reg) (s : State) : Host.Outcome State Fault Refusal :=
  .next (s.writeS (scalarOfBool (s.readF rs1 == s.readF rs2))).complete

/-- ADD (rule R60): F[rd] <- F[rs1] ⊕ F[rs2]. -/
def execAdd (rd rs1 rs2 : Reg) (s : State) : Host.Outcome State Fault Refusal :=
  .next (s.writeF rd (s.readF rs1 ^^^ s.readF rs2)).complete

end Sys2Proof.Machine
end

