-- ==== Sys2Proof/Machine/Hex.lean ====
section
/-! DEFINITION. HEXB, HEXPUT, HEXE, TOHEX, HEXGET (spec/46_hex.md, rules R89 to R94). -/

namespace Sys2Proof.Machine

/-- HEXB (rule R89): clear the hex input state. -/
def execHexb (s : State) : Host.Outcome State Fault Refusal :=
  .next s.clearHexInput.complete

/-- HEXPUT (rule R90): a valid character's digit goes into HIN and sets HANY; any other byte sets HBAD and raises
MalformedInput. -/
def execHexput (imm8 : Byte) (s : State) : Host.Outcome State Fault Refusal :=
  match digitValue imm8 with
  | some v => .next { s with hin := hornerStep s.hin v, hany := true }.complete
  | none => .next ({ s with hbad := true }.raise .malformedInput)

/-- HEXE (rule R92): F[rd] <- HIN, unless a character was invalid or none was valid; the hex input state is cleared in
both cases. -/
def execHexe (rd : Reg) (s : State) : Host.Outcome State Fault Refusal :=
  if s.hbad = true ∨ s.hany = false then .next (s.clearHexInput.raise .malformedInput)
  else .next (s.writeF rd s.hin).clearHexInput.complete

/-- TOHEX (rule R93): load the hex output with F[rs1] and its length, and put the length in S. -/
def execTohex (rs1 : Reg) (s : State) : Host.Outcome State Fault Refusal :=
  .next
    ({ s with
        hoval := s.readF rs1
        holen := BitVec.ofNat 7 (nlen (s.readF rs1))
        hoptr := 0 }.writeS (BitVec.ofNat 64 (nlen (s.readF rs1)))).complete

/-- HEXGET (rule R94): S <- the next character of the hex output, or 0 past its end. -/
def execHexget (s : State) : Host.Outcome State Fault Refusal :=
  if s.hoptr < s.holen then
    .next
      ({ s with hoptr := s.hoptr + 1 }.writeS
        ((hexChar Config.hexOutUpper (nib s.hoval (s.holen.toNat - 1 - s.hoptr.toNat))).setWidth 64)).complete
  else .next (s.writeS 0).complete

end Sys2Proof.Machine
end

