-- ==== Sys2Proof/Machine/Dispatch.lean ====
section
/-! DEFINITION. exec: one arm per command, each one call of its meaning. -/

namespace Sys2Proof.Machine

def exec (i : Instr) (s : State) : Host.Outcome State Fault Refusal :=
  match i with
  | .zero rd => Sys2Proof.Machine.execZero rd s
  | .one rd => Sys2Proof.Machine.execOne rd s
  | .mov rd rs1 => Sys2Proof.Machine.execMov rd rs1 s
  | .eq rs1 rs2 => Sys2Proof.Machine.execEq rs1 rs2 s
  | .add rd rs1 rs2 => Sys2Proof.Machine.execAdd rd rs1 rs2 s
  | .mul rd rs1 rs2 => Sys2Proof.Machine.execMul rd rs1 rs2 s
  | .sqr rd rs1 => Sys2Proof.Machine.execSqr rd rs1 s
  | .powx rd rs1 => Sys2Proof.Machine.execPowx rd rs1 s
  | .powf rd rs1 rs2 => Sys2Proof.Machine.execPowf rd rs1 rs2 s
  | .inv rd rs1 => Sys2Proof.Machine.execInv rd rs1 s
  | .trace rs1 => Sys2Proof.Machine.execTrace rs1 s
  | .hexb => Sys2Proof.Machine.execHexb s
  | .hexput imm8 => Sys2Proof.Machine.execHexput imm8 s
  | .hexe rd => Sys2Proof.Machine.execHexe rd s
  | .tohex rs1 => Sys2Proof.Machine.execTohex rs1 s
  | .hexget => Sys2Proof.Machine.execHexget s

end Sys2Proof.Machine
end

