-- ==== Sys2Proof/Machine/Engine.lean ====
section
/-! DEFINITION. The command engine's step (rule R52), and the step of each kind of input (rules R4, R54, R108). -/

namespace Sys2Proof.Machine

/-- A latched word executed as one whole command, and PEND emptied (rule R52). A word that decodes to no command
completes with IllegalCommand and changes nothing else (rules R50, R97). -/
def executeWord (w : Word32) (s : State) : Host.Outcome State Fault Refusal :=
  match decode w with
  | none => .next (s.raise .illegalCommand).retire
  | some i =>
    match exec i s with
    | .next t => .next t.retire
    | .fault r => .fault r
    | .refused r => .refused r

/-- The engine's turn: a step when PEND is full (rule R52), nothing otherwise, and nothing while reset is asserted
(rule R108). -/
def engineStep (s : State) : Host.Outcome State Fault Refusal :=
  if s.inReset then .next s
  else
    match s.pend with
    | none => .next s
    | some w => executeWord w s

/-- `POLL`: read STATUS until BUSY = 0 (rule R54). While BUSY = 1 the poll stays in front and the engine, which completes
after finitely many such reads (rule R113), takes its step; the reads that return BUSY = 1 change nothing and are not
recorded. -/
def pollStep (rest : List Input) (s : State) : Host.Outcome State Fault Refusal :=
  if s.busy && !s.inReset then engineStep s
  else { s with inputs := rest }.memRead (.window 0x008) 8

/-- The step that one input causes, the rest of the inputs being `rest`. Both edges of the reset input leave every
register at its reset value (rule R108); a release with no reset asserted is no edge. -/
def inputStep (i : Input) (rest : List Input) (s : State) : Host.Outcome State Fault Refusal :=
  match i with
  | .write addr size v => { s with inputs := rest }.memWrite addr size v
  | .read addr size => { s with inputs := rest }.memRead addr size
  | .poll => pollStep rest s
  | .engineTurn => engineStep { s with inputs := rest }
  | .resetAssert => .next ({ s with inputs := rest }.applyReset true)
  | .resetRelease => .next (if s.inReset then { s with inputs := rest }.applyReset false else { s with inputs := rest })

end Sys2Proof.Machine
end

