-- ==== Sys2Proof/Machine/Step.lean ====
section
/-! DEFINITION. The machine's step, and the hook by which a command word is placed for the next step. -/

namespace Sys2Proof.Machine

/-- One step: what the first input says; with no input left, the engine completes a latched command (weak fairness,
rule R113), and a block with nothing to do stays as it is (rule R114). -/
def step (s : State) : Host.Outcome State Fault Refusal :=
  match s.inputs with
  | [] => engineStep s
  | i :: rest => inputStep i rest s

/-- `s` with the command word latched in PEND, as an accepted CMD write leaves it (rule R34), reset released, and the
engine's turn next, so that the very next step executes it. The block fetches nothing (rule R13): a command comes from
the host (notes/assumptions/8.md). -/
def State.withFetchWord (s : State) (nbits w : Nat) : State :=
  { s with pend := some (tableWord nbits w), inReset := false, inputs := .engineTurn :: s.inputs }

end Sys2Proof.Machine
end

