-- ==== Sys2Proof/Safety.lean ====
section
/-! DEFINITION. The terms claims are stated in: what it means that a command completes and leaves the rest alone, the
tables of spec/10_state.md and spec/60_exceptions.md that say what each command may write, the mathematics the rules name
(products, remainders, powers, hex strings), the machine's invariant, and which inputs are admitted. The machine uses none
of this. -/

namespace Sys2Proof.Machine

/-! ## Completion and frames -/

/-- `t` is `u` in all that the spec gives a value to. Outside a command the datapath registers are unspecified (rules R25
to R27, U10), and the draw counter is the model's own: neither is compared. -/
def State.AgreesWith (t u : State) : Prop := { t with dp := u.dp, draws := u.draws } = u

/-- `i` completes in `s`, and what it leaves agrees with `u`. -/
def CompletesAs (i : Instr) (u s : State) : Prop := ∃ t, exec i s = .next t ∧ t.AgreesWith u

/-- `i` completes in `s` with ERR = 0 and `v` in F[rd]; every other field register is kept, and so is all else the spec
gives a value to: putting the field registers back gives `s` with ERR = 0. -/
def CompletesInF (i : Instr) (rd : Reg) (v : Elem) (s : State) : Prop :=
  ∃ t, exec i s = .next t ∧ t.readF rd = v ∧ (∀ r, r ≠ rd → t.readF r = s.readF r) ∧
    { t with f := s.f }.AgreesWith { s with err := 0 }

/-- The datapath after a command, `new`, with every register the rules do not give that command put back to what it held
before, `old` (rules R25 to R27). That a command keeps those registers is the model's reading of these rules
(notes/assumptions/4.md). -/
def datapathFrame (i : Instr) (old new : Datapath) : Datapath :=
  match i with
  | .mul _ _ _ | .sqr _ _ => { old with acc := new.acc }
  | .powx _ _ | .powf _ _ _ => { old with acc := new.acc, powResult := new.powResult, powIndex := new.powIndex }
  | .inv _ _ =>
    { old with acc := new.acc, r0 := new.r0, r1 := new.r1, t0 := new.t0, t1 := new.t1, q := new.q, r := new.r }
  | .trace _ => { old with acc := new.acc, traceSum := new.traceSum, traceConj := new.traceConj }
  | .zero _ | .one _ | .mov _ _ | .eq _ _ | .add _ _ _ | .hexb | .hexput _ | .hexe _ | .tohex _ | .hexget => old

/-- The commands that leave datapath registers unspecified, and so draw free values (notes/assumptions/4.md). -/
def usesDatapath : Instr → Bool
  | .mul _ _ _ | .sqr _ _ | .powx _ _ | .powf _ _ _ | .inv _ _ | .trace _ => true
  | .zero _ | .one _ | .mov _ _ | .eq _ _ | .add _ _ _ | .hexb | .hexput _ | .hexe _ | .tohex _ | .hexget => false

/-- The words that decode to the commands `mk` makes are exactly those that agree with `bits` under `mask`, and the
operands are the word's fields (the "Encoding" line of each command's rule). -/
def EncodedAs (bits mask : Word32) (mk : Fields → Instr) : Prop :=
  ∀ w, (w &&& mask = bits → decode w = some (mk (fieldsOf w))) ∧ ((∃ k, decode w = some (mk k)) → w &&& mask = bits)

/-- The field register a command may write (spec/10_state.md section 1, row F0–F15). -/
def destOf : Instr → Option Reg
  | .zero rd | .one rd | .hexe rd => some rd
  | .mov rd _ | .sqr rd _ | .powx rd _ | .inv rd _ => some rd
  | .add rd _ _ | .mul rd _ _ | .powf rd _ _ => some rd
  | .eq _ _ | .trace _ | .hexb | .hexput _ | .tohex _ | .hexget => none

/-- The commands that may write S (rule R16). -/
def mayWriteS : Instr → Bool
  | .eq _ _ | .trace _ | .tohex _ | .hexget => true
  | .zero _ | .one _ | .mov _ _ | .add _ _ _ | .mul _ _ _ | .sqr _ _ | .powx _ _ | .powf _ _ _ | .inv _ _ | .hexb
  | .hexput _ | .hexe _ => false

/-- The commands that touch the hex input state (rule R112). -/
def touchesHexInput : Instr → Bool
  | .hexb | .hexput _ | .hexe _ => true
  | .zero _ | .one _ | .mov _ _ | .eq _ _ | .add _ _ _ | .mul _ _ _ | .sqr _ _ | .powx _ _ | .powf _ _ _ | .inv _ _
  | .trace _ | .tohex _ | .hexget => false

/-- The commands that touch the hex output state (rule R112). -/
def touchesHexOutput : Instr → Bool
  | .tohex _ | .hexget => true
  | .zero _ | .one _ | .mov _ _ | .eq _ _ | .add _ _ _ | .mul _ _ _ | .sqr _ _ | .powx _ _ | .powf _ _ _ | .inv _ _
  | .trace _ | .hexb | .hexput _ | .hexe _ => false

/-- The completion code of a command, by the table of rule R95. -/
def codeOf (i : Instr) (s : State) : BitVec 4 :=
  match i with
  | .inv _ rs1 => if s.readF rs1 = 0 then 2 else 0
  | .hexput imm8 => if digitValue imm8 = none then 3 else 0
  | .hexe _ => if s.hbad = true ∨ s.hany = false then 3 else 0
  | .zero _ | .one _ | .mov _ _ | .eq _ _ | .add _ _ _ | .mul _ _ _ | .sqr _ _ | .powx _ _ | .powf _ _ _ | .trace _
  | .hexb | .tohex _ | .hexget => 0

/-- Commands executed one after another, stopping at the first that gives no next state. -/
def runCommands : List Instr → State → Host.Outcome State Fault Refusal
  | [], s => .next s
  | i :: is, s =>
    match exec i s with
    | .next t => runCommands is t
    | .fault r => .fault r
    | .refused r => .refused r

/-! ## The mathematics the rules name -/

/-- The product of two polynomials of any degree, over GF(2)[x] with no reduction (rule R76). -/
def polyMul (p q : Poly) : Poly := clmulUpTo p q (Nat.log2 q + 1)

/-- `r` is a remainder of `p` on division by f: f divides p ⊕ r (rule R64 item 2). -/
def IsRemainder (p : Poly) (r : Elem) : Prop := ∃ c, p ^^^ r.toNat = polyMul fPoly c

/-- XOR over a list of bits. -/
def xorBits (bs : List Bool) : Bool := bs.foldr xor false

/-- The positions k = 358 + n down to 359 at which the sweep of rule R63 acts. -/
def sweepActs : Nat → Poly → List Nat
  | 0, _ => []
  | n + 1, acc =>
    if acc.testBit (359 + n) then (359 + n) :: sweepActs n (acc ^^^ fPoly <<< n) else sweepActs n acc

/-- a^e by the recursion of rule R70. -/
def fpow (a : Elem) : Nat → Elem
  | 0 => 1
  | e + 1 => fmul (fpow a e) a

/-- The sum of coefficients 0, 341, 355 and 357 (rule R82 item 4). -/
def traceParity (a : Elem) : Bool := xorBits [a.getLsbD 0, a.getLsbD 341, a.getLsbD 355, a.getLsbD 357]

/-- to_hex(a) of rule R86: nlen(a) characters, most significant nibble first. -/
def toHex (upper : Bool) (a : Elem) : List Byte :=
  (List.range (nlen a)).map fun k => hexChar upper (nib a (nlen a - 1 - k))

/-- P(s) of rule R87: the digit of character i at x^(4·(n−1−i)); `none` if a character is invalid. -/
def hexPoly : List Byte → Option Poly
  | [] => some 0
  | c :: cs =>
    match digitValue c, hexPoly cs with
    | some v, some p => some (v.toNat <<< (4 * cs.length) ^^^ p)
    | _, _ => none

/-- A well-formed hex string (rule R87): at least one character, all valid. -/
def HexWellFormed (cs : List Byte) : Prop := cs ≠ [] ∧ ∀ c ∈ cs, digitValue c ≠ none

/-- from_hex(s) = a, for a well-formed string s (rule R87): a is the remainder of P(s) modulo f. -/
def FromHex (cs : List Byte) (a : Elem) : Prop := HexWellFormed cs ∧ ∃ p, hexPoly cs = some p ∧ IsRemainder p a

/-- `n` HEXGETs in a row, with the S each leaves, in order. -/
def hexgets : Nat → State → Option (List Word64 × State)
  | 0, s => some ([], s)
  | n + 1, s =>
    match exec .hexget s with
    | .next t => (hexgets n t).map fun vs => (t.sreg :: vs.1, vs.2)
    | .fault _ => none
    | .refused _ => none

/-! ## The machine's invariant -/

/-- What every step keeps: ERR is one of the four codes of rule R20; the hex output is 0 as after reset, or the string of
an element, and HOPTR ≤ HOLEN (rule R24); with no valid digit HIN is 0 (rules R23, R90, R92); S holds a bit, a length or a
character (rule R16); while reset is asserted every register but the datapath's, which rule R28 calls unspecified, has its
reset value (rule R108; that reset is a level in the state is notes/assumptions/9.md). -/
structure State.Inv (s : State) : Prop where
  err : s.err.toNat ≤ 3
  output : (s.holen = 0 ∧ s.hoval = 0) ∨ s.holen.toNat = nlen s.hoval
  pointer : s.hoptr ≤ s.holen
  input : s.hany = false → s.hin = 0
  scalar : s.sreg.toNat ≤ 0x66
  inReset : s.inReset = true → { s.applyReset true with dp := s.dp } = s

/-! ## Admitted inputs -/

/-- The access is one the block defines (rules R29, R32). -/
def accessDefined (addr : HostAddr) (size : Nat) : Prop :=
  size = 8 ∧ ∃ o, addr.offset? = some o ∧ o % 8 = 0

/-- The input's step has a meaning in `s` (rules R32, R108). -/
def Input.admitted (s : State) : Input → Prop
  | .write addr size _ => s.inReset = false ∧ accessDefined addr size
  | .read addr size => s.inReset = false ∧ accessDefined addr size
  | .poll => s.inReset = false
  | .engineTurn | .resetAssert | .resetRelease => True

/-- The step from `u` executes the word `w` and empties PEND (rule R52). -/
def ExecutesNext (w : Word32) (u : State) : Prop :=
  ∃ rest t, executeWord w { u with inputs := rest } = .next t ∧ step u = .next t ∧ t.pend = none

/-- The input is the host's: an access, or the accesses of a POLL (rule R54). -/
def Input.ofHost : Input → Bool
  | .write _ _ _ | .read _ _ | .poll => true
  | .engineTurn | .resetAssert | .resetRelease => false

/-- The run of a host program has ended (rule R114): the host has made its last access, its POLLs having returned BUSY = 0,
and PEND is empty. These are the rule's two conditions and there is no other: engine's turns and reset edges still among
the inputs are not accesses, and the level of the reset input does not enter. -/
def State.ended (s : State) : Prop := (∀ i ∈ s.inputs, i.ofHost = false) ∧ s.pend = none

end Sys2Proof.Machine
end

