-- ==== Sys2Proof/Certificates/Slice0/Obligations.lean ====
section
/-! DEFINITION. The statements for the provers, in the order of the spec's files. Each docstring names the rule of spec/
it formalises. A statement that takes any state holds of states no run reaches as well; where it could fail only there,
the invariant State.Inv is its premise, and ResetMeetsTheInvariant and StepKeepsTheInvariant say that it holds. -/

open Sys2Proof Sys2Proof.Machine

/-! ## State and reset (spec/10_state.md, spec/70_reset_and_hazards.md) -/

/-- R28: "After reset, every piece of state holds the value below". The datapath registers are left out: the rule calls
them unspecified. -/
def Obligations.ResetLeavesEverythingZero : Prop :=
  (∀ r, State.reset.readF r = 0) ∧ State.reset.x = 0 ∧ State.reset.sreg = 0 ∧ State.reset.statusWord = 0 ∧
    State.reset.busy = false ∧ State.reset.ovr = false ∧ State.reset.err = 0 ∧ State.reset.pend = none ∧
    State.reset.hin = 0 ∧ State.reset.hany = false ∧ State.reset.hbad = false ∧
    State.reset.hoval = 0 ∧ State.reset.holen = 0 ∧ State.reset.hoptr = 0

/-- From R108: while reset is asserted and when it is released every piece of state takes its reset value, a command in
progress is abandoned, and reset may come between any two steps (it may stand anywhere among the inputs, a command latched
or not). The datapath registers' reset value is the model's own (notes/assumptions/3.md), so they are put back. The model's
choices, not the rule's: reset is two edges and a level, it leaves the inputs and the host's reads as they are, and the
engine takes no step while it is asserted (notes/assumptions/9.md); an access made then is refused under the name
accessDuringReset whatever its width and place (notes/assumptions/16.md). -/
def Obligations.ResetInputClearsTheBlock : Prop :=
  (∀ (s : State) (rest : List Input), s.inputs = .resetAssert :: rest →
    ∃ t, step s = .next t ∧ t.inReset = true ∧
      { t with dp := State.reset.dp, inputs := [], reads := [], draws := 0, inReset := false } = State.reset ∧
      t.inputs = rest ∧ t.reads = s.reads) ∧
  (∀ (s : State) (rest : List Input), s.inputs = .resetRelease :: rest → s.inReset = true →
    ∃ t, step s = .next t ∧ t.inReset = false ∧
      { t with dp := State.reset.dp, inputs := [], reads := [], draws := 0 } = State.reset ∧
      t.inputs = rest ∧ t.reads = s.reads) ∧
  (∀ (s : State) (addr : HostAddr) (size : Nat) (v : Word64), s.inReset = true →
    s.memRead addr size = .refused .accessDuringReset ∧ s.memWrite addr size v = .refused .accessDuringReset) ∧
  (∀ s : State, s.inReset = true → engineStep s = .next s)

/-- The invariant (rules R16, R20, R23, R24, R108) holds after reset. -/
def Obligations.ResetMeetsTheInvariant : Prop := State.reset.Inv

/-- Every step keeps the invariant, from every state that meets it. Its clause on reset rests on the model's choice that
the reset input is a level in the state (notes/assumptions/9.md); it says nothing of the datapath registers, whose reset
value is the model's own (notes/assumptions/3.md). -/
def Obligations.StepKeepsTheInvariant : Prop := ∀ s t : State, s.Inv → step s = .next t → t.Inv

/-- R14: "No command reads STATUS, S or any flag to decide what it does". Two runs of a command that differ only in
STATUS (OVR, ERR, the latch behind BUSY) and S end in states that differ only there, and S does so only where the command
leaves it alone. -/
def Obligations.CommandsDoNotReadStatusOrS : Prop :=
  ∀ (i : Instr) (s t : State) (ovr : Bool) (err : BitVec 4) (pend : Option Word32) (sreg : Word64), exec i s = .next t →
    exec i { s with ovr := ovr, err := err, pend := pend, sreg := sreg } =
      .next { t with ovr := ovr, pend := pend, sreg := if mayWriteS i = true then t.sreg else sreg }

/-- No command writes X, OVR or PEND (rules R15, R19, R22), the reset input, or anything on the host's side; a command
writes no field register but its destination (R9, spec/10_state.md section 1), S only if it is one of EQ, TRACE, TOHEX and
HEXGET (R16), and the hex states only if it is one of their own commands (R112). The last two clauses are the model's, not
the spec's (notes/assumptions/4.md): a command keeps the datapath registers that R25 to R27 do not give it, and draws a free
value only if they give it some. -/
def Obligations.CommandsWriteOnlyTheirOwnState : Prop :=
  ∀ (i : Instr) (s t : State), exec i s = .next t →
    (t.x = s.x ∧ t.ovr = s.ovr ∧ t.pend = s.pend ∧ t.inReset = s.inReset ∧ t.inputs = s.inputs ∧ t.reads = s.reads) ∧
    (∀ r, destOf i ≠ some r → t.readF r = s.readF r) ∧
    (mayWriteS i = false → t.sreg = s.sreg) ∧
    (touchesHexInput i = false → t.hin = s.hin ∧ t.hany = s.hany ∧ t.hbad = s.hbad) ∧
    (touchesHexOutput i = false → t.hoval = s.hoval ∧ t.holen = s.holen ∧ t.hoptr = s.hoptr) ∧
    t.dp = datapathFrame i s.dp t.dp ∧ (usesDatapath i = false → t.draws = s.draws)

/-- The frame as the host sees it, byte by byte (R31, R38): a command leaves every byte of the window as it reads, except
the six words of its destination register, STATUS, and S if it writes S. -/
def Obligations.CommandsKeepOtherWindowBytes : Prop :=
  ∀ (i : Instr) (s t : State) (a : Nat), exec i s = .next t →
    (∀ r, destOf i = some r → a < 0x100 + 0x40 * r.val ∨ 0x130 + 0x40 * r.val ≤ a) →
    (a < 0x008 ∨ 0x010 ≤ a) → (mayWriteS i = true → a < 0x018 ∨ 0x020 ≤ a) → t.byteAt a = s.byteAt a

/-- R19: what sets OVR, what clears it, and that no command reads or writes it. A step that clears a set OVR is a host
write to STATUS with bit 1 = 1, or reset. -/
def Obligations.OverrunFlagIsSticky : Prop :=
  (∀ (s : State) (reg : WindowReg) (v : Word64), s.busy = true → (reg = .cmd ∨ reg = .x ∨ ∃ r j, reg = .fword r j) →
    s.hostWrite reg v = { s with ovr := true }) ∧
  (∀ (s : State) (v : Word64), v.getLsbD 1 = true → s.hostWrite .status v = { s with ovr := false }) ∧
  (∀ (s : State) (v : Word64), v.getLsbD 1 = false → (s.hostWrite .status v).ovr = s.ovr) ∧
  (∀ s t : State, step s = .next t → s.ovr = true → t.ovr = false →
    (∃ addr size v rest, s.inputs = .write addr size v :: rest ∧ addr.offset? = some 0x008 ∧ v.getLsbD 1 = true) ∨
    (∃ rest, s.inputs = .resetAssert :: rest) ∨ (∃ rest, s.inputs = .resetRelease :: rest)) ∧
  (∀ (i : Instr) (s t : State) (ovr : Bool), exec i s = .next t →
    t.ovr = s.ovr ∧ exec i { s with ovr := ovr } = .next { t with ovr := ovr })

/-! ## The register window (spec/20_memory.md) -/

/-- R30: the window's map. -/
def Obligations.WindowMap : Prop :=
  regAt 0x000 = .cmd ∧ regAt 0x008 = .status ∧ regAt 0x010 = .x ∧ regAt 0x018 = .s ∧
  (∀ r j, regAt (0x100 + 0x40 * r.val + 8 * j.val) = .fword r j) ∧
  (∀ o, o % 8 = 0 → o < 0x1000 →
    (0x020 ≤ o ∧ o ≤ 0x0F8 ∨ (∃ r : Reg, o = 0x100 + 0x40 * r.val + 0x30 ∨ o = 0x100 + 0x40 * r.val + 0x38) ∨ 0x500 ≤ o) →
    regAt o = .reserved)

/-- R31: coefficient i of F[r] is bit i mod 64 of the register at offset 0x100 + 0x40·r + 8·⌊i/64⌋, and the byte lanes of
a register are little-endian. -/
def Obligations.WordAndByteOrder : Prop :=
  (∀ (s : State) (r : Reg) (i : Nat), i < 359 →
    (s.readReg (regAt (0x100 + 0x40 * r.val + 8 * (i / 64)))).getLsbD (i % 64) = (s.readF r).getLsbD i) ∧
  (∀ (s : State) (o b k : Nat), o % 8 = 0 → b < 8 → k < 8 →
    (s.byteAt (o + b)).getLsbD k = (s.readReg (regAt o)).getLsbD (8 * b + k))

/-- R29: CORE_BASE is a multiple of 0x1000, an offset names the address that far above it, and the window is the 4 KiB from
there: no other address reaches the block. -/
def Obligations.WindowStandsAtCoreBase : Prop :=
  Config.coreBase % 0x1000 = 0 ∧
  (∀ o, o < 0x1000 → (HostAddr.window o).offset? = some o ∧
    (HostAddr.absolute (Config.coreBase + o)).offset? = some o) ∧
  (∀ a o, (HostAddr.absolute a).offset? = some o → Config.coreBase ≤ a ∧ a ≤ Config.coreBase + 0xFFF ∧
    a = Config.coreBase + o) ∧
  (∀ o, 0x1000 ≤ o → (HostAddr.window o).offset? = none)

/-- From R32: the only accesses with a meaning are 64 bits wide at offsets that are multiples of 8; a model refuses every
other one. That an access outside the window of R29 is refused too is the model's choice (notes/assumptions/6.md). -/
def Obligations.OnlyAlignedWordAccessesAreDefined : Prop :=
  ∀ (s : State) (addr : HostAddr) (size : Nat) (v : Word64), s.inReset = false →
    (accessDefined addr size →
      ∃ o, addr.offset? = some o ∧ s.memRead addr size = .next (s.hostRead (regAt o)) ∧
        s.memWrite addr size v = .next (s.hostWrite (regAt o) v)) ∧
    (¬ accessDefined addr size →
      (∃ why, s.memRead addr size = .refused why) ∧ (∃ why, s.memWrite addr size v = .refused why))

/-- Reads change no register (R33), and each returns one whole register value to the host. The last clause is the model's
choice (notes/assumptions/2.md): each read of S or of a field register while BUSY = 1 draws a free value of its own. -/
def Obligations.ReadsChangeNoRegister : Prop :=
  ∀ (s : State) (reg : WindowReg),
    { s.hostRead reg with reads := s.reads, draws := s.draws } = s ∧
    (∃ v, (s.hostRead reg).reads = v :: s.reads) ∧
    (s.busy = false → s.hostRead reg = { s with reads := s.readReg reg :: s.reads }) ∧
    (s.busy = true → reg.isResult = true → (s.hostRead reg).draws = s.draws + 1)

/-- R34: a host write to CMD latches bits 31:0 if PEND is empty, whatever the word, and is dropped with OVR set if it is
full; a host read returns 0. An illegal word is latched like any other, and the engine reports IllegalCommand when it
executes it. -/
def Obligations.CommandWriteLatchesOrOverruns : Prop :=
  ∀ (s : State) (v : Word64),
    (s.pend = none → s.hostWrite (regAt 0x000) v = { s with pend := some (v.extractLsb' 0 32) } ∧
      (s.hostWrite (regAt 0x000) v).busy = true) ∧
    (s.pend ≠ none → s.hostWrite (regAt 0x000) v = { s with ovr := true }) ∧
    s.hostRead (regAt 0x000) = { s with reads := 0 :: s.reads } ∧
    (s.pend = none → s.inReset = false → decode (v.extractLsb' 0 32) = none →
      ∃ t, engineStep (s.hostWrite (regAt 0x000) v) = .next t ∧ t.AgreesWith { s with err := 1 })

/-- R35: what a read of STATUS returns, bit by bit, and what a write to it does, busy or not. -/
def Obligations.StatusReadAndWrite : Prop :=
  ∀ s : State,
    s.hostRead (regAt 0x008) = { s with reads := s.statusWord :: s.reads } ∧
    s.statusWord.getLsbD 0 = s.pend.isSome ∧ s.statusWord.getLsbD 1 = s.ovr ∧
    s.statusWord.extractLsb' 4 4 = s.err ∧
    (∀ i, i ≠ 0 → i ≠ 1 → (i < 4 ∨ 8 ≤ i) → s.statusWord.getLsbD i = false) ∧
    (∀ v : Word64, s.hostWrite (regAt 0x008) v = if v.getLsbD 1 = true then { s with ovr := false } else s)

/-- R36, R37 and R39: X, S and the reserved offsets. S reads as an unspecified value while PEND is full (a free value:
nothing is said of it, nor of the model's counter of them); a write to S or to a reserved offset changes nothing, busy or not. -/
def Obligations.ExponentScalarAndReservedAccess : Prop :=
  ∀ (s : State) (v : Word64),
    (s.pend ≠ none → s.hostWrite (regAt 0x010) v = { s with ovr := true }) ∧
    (s.pend = none → s.hostWrite (regAt 0x010) v = { s with x := v }) ∧
    s.hostRead (regAt 0x010) = { s with reads := s.x :: s.reads } ∧
    (s.pend = none → s.hostRead (regAt 0x018) = { s with reads := s.sreg :: s.reads }) ∧
    (s.pend ≠ none → ∃ u, { s.hostRead (regAt 0x018) with draws := s.draws } = { s with reads := u :: s.reads }) ∧
    s.hostWrite (regAt 0x018) v = s ∧
    (∀ o, regAt o = .reserved →
      s.hostRead (regAt o) = { s with reads := 0 :: s.reads } ∧ s.hostWrite (regAt o) v = s)

/-- R38: reads and writes of F[r] word j. A write changes that word's bits only; bits above position 358 are discarded,
and they read as 0. -/
def Obligations.FieldWordAccess : Prop :=
  ∀ (s : State) (r : Reg) (j : Fin 6) (v : Word64),
    (s.pend ≠ none → s.hostWrite (regAt (0x100 + 0x40 * r.val + 8 * j.val)) v = { s with ovr := true }) ∧
    (s.pend = none →
      ∃ t, s.hostWrite (regAt (0x100 + 0x40 * r.val + 8 * j.val)) v = t ∧
        (∀ i, i < 359 →
          (t.readF r).getLsbD i = if i / 64 = j.val then v.getLsbD (i % 64) else (s.readF r).getLsbD i) ∧
        (∀ q, q ≠ r → t.readF q = s.readF q) ∧ { t with f := s.f } = s) ∧
    (s.pend = none →
      ∃ u, s.hostRead (regAt (0x100 + 0x40 * r.val + 8 * j.val)) = { s with reads := u :: s.reads } ∧
        ∀ i, i < 64 → u.getLsbD i = (decide (64 * j.val + i < 359) && (s.readF r).getLsbD (64 * j.val + i))) ∧
    (s.pend ≠ none →
      ∃ u, { s.hostRead (regAt (0x100 + 0x40 * r.val + 8 * j.val)) with draws := s.draws } =
        { s with reads := u :: s.reads })

/-- R43: an accepted CMD write copies its word into PEND; a command latched is never changed by a later host write, and
another CMD write is dropped while it is there; a step leaves it, or the engine completes it, or reset abandons it. -/
def Obligations.LatchedCommandIsNeverChanged : Prop :=
  (∀ (s : State) (v : Word64), s.pend = none → (s.hostWrite .cmd v).pend = some (v.extractLsb' 0 32)) ∧
  (∀ (s : State) (v : Word64), s.pend ≠ none → s.hostWrite .cmd v = { s with ovr := true }) ∧
  (∀ (s : State) (reg : WindowReg) (v : Word64) (w : Word32), s.pend = some w → (s.hostWrite reg v).pend = some w) ∧
  (∀ (s t : State) (w : Word32), s.pend = some w → step s = .next t → t.pend = some w ∨ t.pend = none)

/-! ## Commands and the engine (spec/30_encoding.md) -/

/-- R50 and R97: which words are illegal, and what an illegal word does. -/
def Obligations.IllegalWordsAreReported : Prop :=
  (∀ w, decode w = none ↔ wordWellFormed w = false) ∧
  ((List.range 256).filter fun op => (formatOfOpcode op).isNone).length = 240 ∧
  (∀ op, op < 256 → (formatOfOpcode op = none ↔
    op = 0x00 ∨ 0x05 ≤ op ∧ op ≤ 0x0F ∨ 0x17 ≤ op ∧ op ≤ 0x1F ∨ 0x25 ≤ op)) ∧
  decode 0#32 = none ∧
  (∀ (w : Word32) (s : State), decode w = none → executeWord w s = .next { s with err := 1, pend := none })

/-- R49: the row that matches gives the command; none matching gives ILLEGAL; at most one row can match. -/
def Obligations.DecodingFollowsTheTable : Prop :=
  rows.length = 16 ∧
  (∀ (w : Word32) (row : Row), row ∈ rows → w &&& row.format.mask = row.bits →
    decode w = some (row.command (fieldsOf w))) ∧
  (∀ w : Word32, (∀ row ∈ rows, w &&& row.format.mask ≠ row.bits) → decode w = none) ∧
  (∀ w : Word32, (rows.filter fun row => w &&& row.format.mask == row.bits).length ≤ 1)

/-- Decoding undoes encoding, for every command with every operand (R45 to R48). -/
def Obligations.DecodeOfEncodeIsTheCommand : Prop := ∀ i : Instr, decode (encode i) = some i

/-- Each command has one word (R47: every unused field must be zero): encoding undoes decoding. -/
def Obligations.EncodeOfDecodeIsTheWord : Prop := ∀ (w : Word32) (i : Instr), decode w = some i → encode i = w

/-- The example words of spec/30_encoding.md section 6. -/
def Obligations.ExampleWordsDecode : Prop :=
  decode 0x01500000#32 = some (.zero 5) ∧ decode 0x03290000#32 = some (.mov 2 9) ∧
  decode 0x04034000#32 = some (.eq 3 4) ∧ decode 0x11312000#32 = some (.mul 3 1 2) ∧
  decode 0x12FF0000#32 = some (.sqr 15 15) ∧ decode 0x14412000#32 = some (.powf 4 1 2) ∧
  decode 0x15610000#32 = some (.inv 6 1) ∧ decode 0x16070000#32 = some (.trace 7) ∧
  decode 0x21000061#32 = some (.hexput 0x61) ∧ decode 0x22800000#32 = some (.hexe 8) ∧
  decode 0x24000000#32 = some .hexget ∧ decode 0x01010000#32 = none ∧ decode 0x05000000#32 = none

/-- A step runs the decoded command (R52). Where it is the engine's turn and PEND holds a word that decodes to `i`, the
step is exec of `i`, and then PEND is empty. When it is the engine's turn is the model's choice, one clause each: where the
schedule says so and when the host has nothing left to do (notes/assumptions/1.md), and at a POLL that finds BUSY = 1
(notes/assumptions/10.md). The last clause is the model's own hook for placing a command (notes/assumptions/8.md). -/
def Obligations.StepExecutesTheLatchedCommand : Prop :=
  ∀ (s t : State) (w : Word32) (i : Instr) (rest : List Input), s.inReset = false → s.pend = some w →
    decode w = some i →
    (s.inputs = .engineTurn :: rest → exec i { s with inputs := rest } = .next t → step s = .next { t with pend := none }) ∧
    (s.inputs = [] → exec i s = .next t → step s = .next { t with pend := none }) ∧
    (s.inputs = .poll :: rest → exec i s = .next t → step s = .next { t with pend := none }) ∧
    (∀ n, decodeTableWord 32 n = some i → exec i { s with pend := some (tableWord 32 n) } = .next t →
      step (s.withFetchWord 32 n) = .next { t with pend := none })

/-! ## Constants, assignment, equality and addition (spec/40_basic.md) -/

/-- R56: ZERO. -/
def Obligations.ZeroWritesTheZeroElement : Prop :=
  EncodedAs 0x01000000#32 0xFF0FFFFF#32 (fun k => .zero k.rd) ∧ decode 0x01500000#32 = some (.zero 5) ∧
  ∀ (rd : Reg) (s : State), CompletesInF (.zero rd) rd 0 s

/-- R57: ONE. -/
def Obligations.OneWritesTheOneElement : Prop :=
  EncodedAs 0x02000000#32 0xFF0FFFFF#32 (fun k => .one k.rd) ∧ decode 0x02000000#32 = some (.one 0) ∧
  ∀ (rd : Reg) (s : State), CompletesInF (.one rd) rd 1 s

/-- R58: MOV; with rd = rs1 the register is left unchanged, and a source that is not the destination keeps its value. The
copy is a value copy: a later write to either register does not change the other. -/
def Obligations.MovCopiesARegister : Prop :=
  EncodedAs 0x03000000#32 0xFF00FFFF#32 (fun k => .mov k.rd k.rs1) ∧ decode 0x03290000#32 = some (.mov 2 9) ∧
  (∀ (rd rs1 : Reg) (s : State), CompletesInF (.mov rd rs1) rd (s.readF rs1) s) ∧
  (∀ (rd rs1 : Reg) (s t : State) (a : Elem), rd ≠ rs1 → exec (.mov rd rs1) s = .next t →
    (t.writeF rs1 a).readF rd = s.readF rs1 ∧ (t.writeF rd a).readF rs1 = s.readF rs1)

/-- R59: EQ; no field register is written, and a register equals itself. -/
def Obligations.EqComparesAllCoefficients : Prop :=
  EncodedAs 0x04000000#32 0xFFF00FFF#32 (fun k => .eq k.rs1 k.rs2) ∧ decode 0x04034000#32 = some (.eq 3 4) ∧
  ∀ (rs1 rs2 : Reg) (s : State),
    ((∀ i, i < 359 → (s.readF rs1).getLsbD i = (s.readF rs2).getLsbD i) →
      CompletesAs (.eq rs1 rs2) { s with sreg := 1, err := 0 } s) ∧
    ((∃ i, i < 359 ∧ (s.readF rs1).getLsbD i ≠ (s.readF rs2).getLsbD i) →
      CompletesAs (.eq rs1 rs2) { s with sreg := 0, err := 0 } s)

/-- R60: ADD. -/
def Obligations.AddIsCoefficientwiseXor : Prop :=
  EncodedAs 0x10000000#32 0xFF000FFF#32 (fun k => .add k.rd k.rs1 k.rs2) ∧ decode 0x10123000#32 = some (.add 1 2 3) ∧
  ∀ (rd rs1 rs2 : Reg) (s : State),
    CompletesInF (.add rd rs1 rs2) rd (s.readF rs1 ^^^ s.readF rs2) s ∧
    (rs1 = rs2 → CompletesInF (.add rd rs1 rs2) rd 0 s) ∧
    (s.readF rs1 = 0 → CompletesInF (.add rd rs1 rs2) rd (s.readF rs2) s) ∧
    (s.readF rs2 = 0 → CompletesInF (.add rd rs1 rs2) rd (s.readF rs1) s)

/-! ## Multiplication and reduction (spec/41_mul.md) -/

/-- R62: the coefficients of the carry-less product, its degree, and that it is 0 for a zero operand. -/
def Obligations.CarrylessProductCoefficients : Prop :=
  (∀ (a b : Elem) (k : Nat), (clmul a b).testBit k =
    xorBits ((List.range (k + 1)).map fun i => a.getLsbD i && b.getLsbD (k - i))) ∧
  (∀ a b : Elem, clmul a b < 2 ^ 717) ∧ (∀ a : Elem, clmul a 0 = 0 ∧ clmul 0 a = 0)

/-- R64: the five properties of the reduction sweep. Item 1: the iteration for k = 359 + n, which starts with nothing above
k, leaves nothing at k or above, and the later iterations go on from what it leaves, each with the same property; so nothing
is left at 359 or above at the end. Item 2: the result is the remainder, the only Elem r
with f dividing p ⊕ r. Items 3, 4 and 5 as the rule has them. -/
def Obligations.ReductionSweepIsTheRemainder : Prop :=
  (∀ (n : Nat) (p : Poly), p < 2 ^ (359 + (n + 1)) →
    (if p.testBit (359 + n) then p ^^^ fPoly <<< n else p) < 2 ^ (359 + n) ∧
    sweep (n + 1) p = sweep n (if p.testBit (359 + n) then p ^^^ fPoly <<< n else p)) ∧
  (∀ (n : Nat) (p : Poly), p < 2 ^ (359 + n) → sweep n p < 2 ^ 359) ∧
  (∀ p : Poly, p < 2 ^ 717 → IsRemainder p (reduce p) ∧ ∀ r : Elem, IsRemainder p r → r = reduce p) ∧
  (∀ p : Poly, p < 2 ^ 359 → (reduce p).toNat = p) ∧
  (∀ p q : Poly, reduce (p ^^^ q) = reduce p ^^^ reduce q) ∧
  (reduce (2 ^ 716)).toNat = 2 ^ 357 + 2 ^ 34 + 2 ^ 16 + 2 ^ 6 + 1 ∧ sweepActs 358 (2 ^ 716) = [716, 375, 361, 359]

/-- R65: MUL, with its corner cases. -/
def Obligations.MulIsTheReducedProduct : Prop :=
  EncodedAs 0x11000000#32 0xFF000FFF#32 (fun k => .mul k.rd k.rs1 k.rs2) ∧ decode 0x11312000#32 = some (.mul 3 1 2) ∧
  (∀ (rd rs1 rs2 : Reg) (s : State),
    CompletesInF (.mul rd rs1 rs2) rd (reduce (clmul (s.readF rs1) (s.readF rs2))) s) ∧
  (∀ a b : Elem, (a = 0 ∨ b = 0 → reduce (clmul a b) = 0) ∧ (a = 1 → reduce (clmul a b) = b)) ∧
  (∀ a : Elem, reduce (clmul a a) = reduce (spread a)) ∧
  clmul (1 <<< 358) (1 <<< 358) = 2 ^ 716 ∧ reduce (clmul 0x3 0x5) = 0xf

/-- The ring laws of MUL (R66, all but its last item, which InverseIsUnique states). -/
def Obligations.MulIsCommutativeAssociativeDistributive : Prop :=
  ∀ a b c : Elem, fmul a b = fmul b a ∧ fmul (fmul a b) c = fmul a (fmul b c) ∧ fmul a 1 = a ∧ fmul a 0 = 0 ∧
    fmul (a ^^^ b) c = fmul a c ^^^ fmul b c

/-! ## Squaring (spec/42_sqr.md) -/

/-- R67 and R68: the Frobenius spread, and SQR with its corner cases. -/
def Obligations.SqrIsTheReducedSpread : Prop :=
  (∀ (a : Elem) (i : Nat), i ≤ 358 → (spread a).testBit (2 * i) = a.getLsbD i ∧ (spread a).testBit (2 * i + 1) = false) ∧
  (∀ a : Elem, spread a < 2 ^ 717) ∧
  EncodedAs 0x12000000#32 0xFF00FFFF#32 (fun k => .sqr k.rd k.rs1) ∧ decode 0x12110000#32 = some (.sqr 1 1) ∧
  (∀ (rd rs1 : Reg) (s : State),
    CompletesInF (.sqr rd rs1) rd (reduce (spread (s.readF rs1))) s) ∧
  reduce (spread 0) = 0 ∧ reduce (spread 1) = 1 ∧
  (∀ a : Elem, deg a.toNat ≤ 179 → (reduce (spread a)).toNat = spread a) ∧
  (∀ a : Elem, 180 ≤ deg a.toNat → 2 ^ 360 ≤ spread a) ∧
  reduce (spread (1 <<< 180)) = 0x8002a

/-- R69: SQR and MUL of a register by itself agree bit for bit, and squaring is linear. -/
def Obligations.SqrAgreesWithMul : Prop :=
  (∀ a : Elem, reduce (spread a) = reduce (clmul a a)) ∧ (∀ a : Elem, spread a = clmul a a) ∧
  (∀ (rd rs1 : Reg) (s t u : State), exec (.sqr rd rs1) s = .next t → exec (.mul rd rs1 rs1) s = .next u →
    t.readF rd = u.readF rd) ∧
  (∀ a b : Elem, fsqr (a ^^^ b) = fsqr a ^^^ fsqr b)

/-! ## Exponentiation (spec/43_pow.md) -/

/-- R71: pow_core(a, e, W) = a^e for every W with e < 2^W, where a^e is rule R70's power. -/
def Obligations.SquareAndMultiplyComputesThePower : Prop :=
  ∀ (a : Elem) (e width : Nat), e < 2 ^ width → powCore a e width = fpow a e

/-- POWX completes with pow_core of its operand and X over 64 bits, and X is kept; POWF with pow_core of its operands over
359 bits (the pseudocode of R72 and R73). -/
def Obligations.PowxAndPowfComplete : Prop :=
  EncodedAs 0x13000000#32 0xFF00FFFF#32 (fun k => .powx k.rd k.rs1) ∧
  EncodedAs 0x14000000#32 0xFF000FFF#32 (fun k => .powf k.rd k.rs1 k.rs2) ∧
  (∀ (rd rs1 : Reg) (s : State),
    CompletesInF (.powx rd rs1) rd (powCore (s.readF rs1) s.x.toNat 64) s) ∧
  (∀ (rd rs1 rs2 : Reg) (s : State),
    CompletesInF (.powf rd rs1 rs2) rd (powCore (s.readF rs1) (s.readF rs2).toNat 359) s)

/-- R74: the laws of the power (associativity gives pow(a, 5) in any bracketing), the order of the multiplicative group, and that POWX and POWF agree on equal exponents. -/
def Obligations.PowerLaws : Prop :=
  (∀ a : Elem, fpow a 0 = 1 ∧ fpow a 1 = a ∧ fpow a 2 = fsqr a ∧ fsqr a = fmul a a ∧
    fpow a 5 = fmul (fmul (fmul (fmul a a) a) a) a ∧ fpow a 5 = fmul (fmul a a) (fmul a (fmul a a))) ∧
  (∀ a b c : Elem, fmul (fmul a b) c = fmul a (fmul b c)) ∧
  (∀ (a : Elem) (i j : Nat), fmul (fpow a i) (fpow a j) = fpow a (i + j)) ∧
  (∀ a : Elem, a ≠ 0 → fpow a (2 ^ 359 - 1) = 1 ∧ ∀ e, fpow a e = fpow a (e % (2 ^ 359 - 1))) ∧
  (∀ (rd rs1 rs2 : Reg) (s t u : State), s.x.toNat = (s.readF rs2).toNat → exec (.powx rd rs1) s = .next t →
    exec (.powf rd rs1 rs2) s = .next u → t.readF rd = u.readF rd)

/-! ## Inversion (spec/44_inv.md) -/

/-- INV of a nonzero operand completes with inv_euclid of it (the success case of R75's pseudocode). -/
def Obligations.InvOfNonzeroCompletes : Prop :=
  EncodedAs 0x15000000#32 0xFF00FFFF#32 (fun k => .inv k.rd k.rs1) ∧ decode 0x15610000#32 = some (.inv 6 1) ∧
  ∀ (rd rs1 : Reg) (s : State), s.readF rs1 ≠ 0 →
    CompletesInF (.inv rd rs1) rd (invEuclid (s.readF rs1)) s

/-- R98: INV of zero reports code 2 and changes nothing else, and no other command can raise code 2; MUL, SQR, POWX, POWF
and TRACE complete with code 0 whatever their operands. -/
def Obligations.InvOfZeroReportsAndKeepsAll : Prop :=
  (∀ (rd rs1 : Reg) (s : State), s.readF rs1 = 0 → exec (.inv rd rs1) s = .next { s with err := 2 }) ∧
  (∀ (i : Instr) (s t : State), exec i s = .next t → t.err = 2 → ∃ rd rs1, i = .inv rd rs1 ∧ s.readF rs1 = 0) ∧
  (∀ (i : Instr) (s : State),
    (∃ rd rs1 rs2, i = .mul rd rs1 rs2 ∨ i = .sqr rd rs1 ∨ i = .powx rd rs1 ∨ i = .powf rd rs1 rs2 ∨ i = .trace rs1) →
    ∃ t, exec i s = .next t ∧ t.err = 0)

/-- R76: polynomial long division. -/
def Obligations.LongDivision : Prop :=
  ∀ n d : Poly, d ≠ 0 → n = polyMul d (pdivmod n d).1 ^^^ (pdivmod n d).2 ∧ deg (pdivmod n d).2 < deg d

/-- R80: every nonzero element has exactly one inverse and INV writes it; inverting twice gives the element back. -/
def Obligations.InverseIsUnique : Prop :=
  (∀ a : Elem, a ≠ 0 → reduce (clmul a (invEuclid a)) = 1 ∧ (∀ c : Elem, reduce (clmul a c) = 1 → c = invEuclid a) ∧
    invEuclid (invEuclid a) = a ∧ fmul a (invEuclid a) = 1) ∧
  (∀ (rd rs1 : Reg) (s t : State), s.readF rs1 ≠ 0 → exec (.inv rd rs1) s = .next t →
    reduce (clmul (s.readF rs1) (t.readF rd)) = 1)

/-- R79: the Fermat power equals the Euclidean inverse for a ≠ 0 and is 0 for a = 0, and POWF with exponent 2^359 − 2
computes it. -/
def Obligations.FermatInverseAgrees : Prop :=
  (∀ a : Elem, a ≠ 0 → powCore a (2 ^ 359 - 2) 359 = invEuclid a) ∧ powCore 0 (2 ^ 359 - 2) 359 = 0 ∧
  (∀ (rd rs1 rs2 : Reg) (s t : State), (s.readF rs2).toNat = 2 ^ 359 - 2 → exec (.powf rd rs1 rs2) s = .next t →
    t.readF rd = if s.readF rs1 = 0 then 0 else invEuclid (s.readF rs1))

/-! ## Trace (spec/45_trace.md) -/

/-- TRACE completes with bit 0 of the sum of the conjugates in S (the pseudocode of R81); no field register is written. -/
def Obligations.TraceCompletes : Prop :=
  EncodedAs 0x16000000#32 0xFFF0FFFF#32 (fun k => .trace k.rs1) ∧ decode 0x16070000#32 = some (.trace 7) ∧
  ∀ (rs1 : Reg) (s : State), ∃ t, exec (.trace rs1) s = .next t ∧
    t.sreg = (if (traceSum (s.readF rs1)).getLsbD 0 = true then 1 else 0) ∧
    { t with sreg := s.sreg }.AgreesWith { s with err := 0 }

/-- R82: the sum of the conjugates is 0 or 1, it is additive, Tr(0) = 0 and Tr(1) = 1, and it is the sum of coefficients
0, 341, 355 and 357. -/
def Obligations.TraceIsTheParityOfFourCoefficients : Prop :=
  (∀ a : Elem, traceSum a = 0 ∨ traceSum a = 1) ∧ (∀ a b : Elem, traceSum (a ^^^ b) = traceSum a ^^^ traceSum b) ∧
  traceSum 0 = 0 ∧ traceSum 1 = 1 ∧
  (∀ i, i < 359 → (traceSum (1 <<< i) = 1 ↔ i = 0 ∨ i = 341 ∨ i = 355 ∨ i = 357)) ∧
  (∀ a : Elem, traceSum a = if traceParity a = true then 1 else 0)

/-! ## Hex codec (spec/46_hex.md) -/

/-- R83 and R85: the 22 valid characters and their values, every other byte being invalid, and the characters put out, in
either letter case; a parser accepts both. -/
def Obligations.ValidHexCharacters : Prop :=
  (∀ (c : Byte) (v : BitVec 4), digitValue c = some v ↔
    (0x30 ≤ c.toNat ∧ c.toNat ≤ 0x39 ∧ v.toNat = c.toNat - 0x30) ∨
    (0x61 ≤ c.toNat ∧ c.toNat ≤ 0x66 ∧ v.toNat = c.toNat - 0x61 + 10) ∨
    (0x41 ≤ c.toNat ∧ c.toNat ≤ 0x46 ∧ v.toNat = c.toNat - 0x41 + 10)) ∧
  (∀ (upper : Bool) (v : BitVec 4), digitValue (hexChar upper v) = some v ∧
    (v.toNat ≤ 9 → (hexChar upper v).toNat = 0x30 + v.toNat) ∧
    (10 ≤ v.toNat → (hexChar upper v).toNat = if upper = true then 0x41 + (v.toNat - 10) else 0x61 + (v.toNat - 10)))

/-- R84: nibbles and the hex length. -/
def Obligations.HexLengthAndNibbles : Prop :=
  ∀ a : Elem, (∀ j k, (nib a j).getLsbD k = (decide (k < 4) && a.getLsbD (4 * j + k))) ∧
    (a = 0 → nlen a = 1) ∧ (a ≠ 0 → (nlen a : Int) = deg a.toNat / 4 + 1) ∧ 1 ≤ nlen a ∧ nlen a ≤ 90 ∧
    (356 ≤ deg a.toNat → nlen a = 90) ∧ (nib a 89).toNat ≤ 7

/-- R88: parsing the string of an element gives the element, in either letter case. -/
def Obligations.FromHexOfToHex : Prop := ∀ (upper : Bool) (a : Elem), FromHex (toHex upper a) a

/-- R89: HEXB. It is optional after reset and after HEXE, which leave the state it leaves. -/
def Obligations.HexbClearsTheInput : Prop :=
  EncodedAs 0x20000000#32 0xFFFFFFFF#32 (fun _ => .hexb) ∧
  (∀ s : State, CompletesAs .hexb { s with hin := 0, hany := false, hbad := false, err := 0 } s) ∧
  (∀ (rd : Reg) (s t : State), exec (.hexe rd) s = .next t → t.hin = 0 ∧ t.hany = false ∧ t.hbad = false) ∧
  State.reset.hin = 0 ∧ State.reset.hany = false ∧ State.reset.hbad = false

/-- HEXPUT (R90): a valid character's digit enters HIN, an invalid one sets HBAD; nothing else changes. -/
def Obligations.HexputAppendsOneCharacter : Prop :=
  EncodedAs 0x21000000#32 0xFFFFFF00#32 (fun k => .hexput k.imm8) ∧
  (∀ (c : Byte) (v : BitVec 4) (s : State), digitValue c = some v →
    s.hin.toNat <<< 4 ^^^ v.toNat < 2 ^ 363 ∧
    CompletesAs (.hexput c) { s with hin := reduce (s.hin.toNat <<< 4 ^^^ v.toNat), hany := true, err := 0 } s) ∧
  (∀ (c : Byte) (s : State), digitValue c = none → CompletesAs (.hexput c) { s with hbad := true, err := 3 } s)

/-- R91: HEXB and then the HEXPUTs of a well-formed string leave from_hex of the string in HIN. -/
def Obligations.HexInputHoldsFromHex : Prop :=
  ∀ (cs : List Byte) (s : State), HexWellFormed cs →
    ∃ t, runCommands (.hexb :: cs.map .hexput) s = .next t ∧ FromHex cs t.hin ∧ t.hany = true ∧ t.hbad = false ∧
      t.err = 0 ∧ { t with hin := s.hin, hany := s.hany, hbad := s.hbad, err := s.err }.AgreesWith s

/-- HEXB, HEXPUT and HEXE on a string (R90, R92, R99): a well-formed one writes its value, any other leaves every field
register as it was and reports code 3; the hex input is clear afterwards. -/
def Obligations.HexStringIsParsedOrRejected : Prop :=
  ∀ (cs : List Byte) (rd : Reg) (s : State),
    ∃ t, runCommands (.hexb :: cs.map .hexput ++ [.hexe rd]) s = .next t ∧ t.hin = 0 ∧ t.hany = false ∧ t.hbad = false ∧
      (HexWellFormed cs → FromHex cs (t.readF rd) ∧ t.err = 0 ∧ ∀ r, r ≠ rd → t.readF r = s.readF r) ∧
      (¬ HexWellFormed cs → t.f = s.f ∧ t.err = 3)

/-- R92: HEXE. -/
def Obligations.HexeWritesOrRejects : Prop :=
  EncodedAs 0x22000000#32 0xFF0FFFFF#32 (fun k => .hexe k.rd) ∧
  (∀ (rd : Reg) (s : State), s.hbad = true ∨ s.hany = false →
    exec (.hexe rd) s = .next { s with hin := 0, hany := false, hbad := false, err := 3 }) ∧
  (∀ (rd : Reg) (s : State), s.hbad = false → s.hany = true →
    ∃ t, exec (.hexe rd) s = .next t ∧ t.readF rd = s.hin ∧ (∀ r, r ≠ rd → t.readF r = s.readF r) ∧
      { t with f := s.f }.AgreesWith { s with hin := 0, hany := false, hbad := false, err := 0 })

/-- R93: TOHEX. -/
def Obligations.TohexLoadsTheOutput : Prop :=
  EncodedAs 0x23000000#32 0xFFF0FFFF#32 (fun k => .tohex k.rs1) ∧ decode 0x23080000#32 = some (.tohex 8) ∧
  ∀ (rs1 : Reg) (s : State), ∃ t, exec (.tohex rs1) s = .next t ∧
    t.hoval = s.readF rs1 ∧ (∀ q a, (t.writeF q a).hoval = s.readF rs1) ∧ t.holen.toNat = nlen (s.readF rs1) ∧
    t.hoptr = 0 ∧ t.sreg.toNat = nlen (s.readF rs1) ∧ 1 ≤ t.sreg.toNat ∧ t.sreg.toNat ≤ 90 ∧ (s.readF rs1 = 0 → t.sreg = 1) ∧
    { t with hoval := s.hoval, holen := s.holen, hoptr := s.hoptr, sreg := s.sreg }.AgreesWith { s with err := 0 }

/-- R94: HEXGET, and that the HOLEN HEXGETs after a TOHEX return the characters of to_hex in order, and one more returns
0. -/
def Obligations.HexgetEmitsTheString : Prop :=
  EncodedAs 0x24000000#32 0xFFFFFFFF#32 (fun _ => .hexget) ∧
  (∀ s : State, s.hoptr < s.holen →
    CompletesAs .hexget
      { s with
        sreg := (hexChar Config.hexOutUpper (nib s.hoval (s.holen.toNat - 1 - s.hoptr.toNat))).setWidth 64
        hoptr := s.hoptr + 1
        err := 0 } s) ∧
  (∀ s : State, ¬ s.hoptr < s.holen → CompletesAs .hexget { s with sreg := 0, err := 0 } s) ∧
  (∀ (rs1 : Reg) (s t : State), exec (.tohex rs1) s = .next t →
    ∃ u, hexgets (nlen (s.readF rs1)) t =
        some ((toHex Config.hexOutUpper (s.readF rs1)).map fun c => c.setWidth 64, u) ∧
      CompletesAs .hexget { u with sreg := 0, err := 0 } u)

/-! ## Errors (spec/60_exceptions.md) -/

/-- R95: the completion code of every command, and that it is one of the four. -/
def Obligations.EveryCommandReportsItsCode : Prop :=
  (∀ (i : Instr) (s t : State), exec i s = .next t → t.err = codeOf i s ∧ t.err.toNat ≤ 3) ∧
  (∀ (w : Word32) (s t : State), executeWord w s = .next t →
    (t.err = 1 ↔ decode w = none)) ∧
  (∀ (c : Byte) (s t : State), exec (.hexput c) s = .next t → t.err = 3 → t.hbad = true) ∧
  (∀ (rd : Reg) (s t : State), exec (.hexe rd) s = .next t → t.err = 3 →
    t.hin = 0 ∧ t.hany = false ∧ t.hbad = false)

/-- R96: a failing command writes its code and the error-case writes of its own rule, and nothing else; a command that
does not fail writes code 0; in either case the engine then empties PEND. -/
def Obligations.FailingCommandsWriteNothingElse : Prop :=
  (∀ (i : Instr) (s t : State), exec i s = .next t → t.err ≠ 0 →
    t = { s with err := t.err } ∨
    (∃ c, i = .hexput c ∧ t = { s with hbad := true, err := t.err }) ∨
    (∃ rd, i = .hexe rd ∧ t = { s with hin := 0, hany := false, hbad := false, err := t.err })) ∧
  (∀ (w : Word32) (s t : State), executeWord w s = .next t → t.pend = none)

/-! ## The whole machine (spec/20_memory.md section 4, spec/70_reset_and_hazards.md) -/

/-- The machine never faults, and it stops only at a host access that is not admitted (R32, R108). The model's, not the
spec's: an access outside the window is refused (notes/assumptions/6.md), and Fault has no constructor because no rule stops
the block (notes/assumptions/15.md). -/
def Obligations.StepStopsOnlyAtRefusedAccesses : Prop :=
  ∀ s : State, (∀ why, step s ≠ .fault why) ∧
    ((∃ why, step s = .refused why) → ∃ i rest, s.inputs = i :: rest ∧ ¬ i.admitted s) ∧
    (∀ i rest, s.inputs = i :: rest → ¬ i.admitted s → ∃ why, step s = .refused why)

/-- A latched command completes eventually (R113): after at most as many steps as there are inputs, a state is reached with
the command still latched whose next step executes it, or whose next input is a refused access or a reset that abandons it
(R108); where every input is an admitted one and no reset, it is executed. The bound rests on the model's choices that the
engine steps when no input is left (notes/assumptions/1.md) and at a POLL (notes/assumptions/10.md). -/
def Obligations.LatchedCommandCompletes : Prop :=
  ∀ (s : State) (w : Word32), s.pend = some w → s.inReset = false →
    (∃ n u, n ≤ s.inputs.length ∧ Sys2Proof.core.run n s = .next u ∧ u.pend = some w ∧
      (ExecutesNext w u ∨ (∃ why, step u = .refused why) ∨
        ∃ rest t, u.inputs = .resetAssert :: rest ∧ step u = .next t ∧ t.pend = none)) ∧
    ((∀ i ∈ s.inputs, i.admitted s ∧ i ≠ .resetAssert) →
      ∃ n u, n ≤ s.inputs.length ∧ Sys2Proof.core.run n s = .next u ∧ u.pend = some w ∧ ExecutesNext w u)

/-- Program P7 of spec/95_test_vectors.md (R34, R40): two CMD writes with no POLL between them; the engine's turn may fall
before the second write or not, and the model admits both. -/
def Obligations.OverrunRaceAdmitsBothSchedules : Prop :=
  ∀ (s : State) (v w : Word64), s.pend = none → s.inReset = false →
    (∀ t, executeWord (v.extractLsb' 0 32) { s with pend := some (v.extractLsb' 0 32), inputs := [] } = .next t →
      Sys2Proof.core.run 3
          { s with inputs := [.write (.window 0x000) 8 v, .engineTurn, .write (.window 0x000) 8 w] } =
        .next { t with pend := some (w.extractLsb' 0 32) }) ∧
    Sys2Proof.core.run 2 { s with inputs := [.write (.window 0x000) 8 v, .write (.window 0x000) 8 w] } =
      .next { s with inputs := [], pend := some (v.extractLsb' 0 32), ovr := true }
end

