-- ==== Sys2Proof/Laws/Field.lean ====
section
/-! SUPPORT. The evaluation barriers are application, and one equation per loop of Machine/Field.lean without them: later
proofs rewrite with these and never unfold a barrier. -/

namespace Sys2Proof.Machine

/-- The barrier is application. -/
@[simp] theorem strict_eq {α : Type} (x : Nat) (k : Nat → α) : strict x k = k x := by
  cases x <;> rfl

/-- The barrier on an element is application. -/
@[simp] theorem strictElem_eq {α : Type} (a : Elem) (k : Elem → α) : strictElem a k = k a := by
  simp [strictElem]

/-- The field product (rule R65). -/
theorem fmul_eq (a b : Elem) : fmul a b = reduce (clmul a b) := by
  simp [fmul]

/-- The field square (rule R68). -/
theorem fsqr_eq (a : Elem) : fsqr a = reduce (spread a) := by
  simp [fsqr]

/-- One iteration of the reduction sweep (rule R63). -/
theorem sweep_succ (n : Nat) (acc : Poly) :
    sweep (n + 1) acc = sweep n (if acc.testBit (359 + n) then acc ^^^ (fPoly <<< n) else acc) := by
  rw [sweep, strict_eq]

/-- One iteration of square-and-multiply (rule R71). -/
theorem powLoop_succ (a : Elem) (e i : Nat) (r : Elem) :
    powLoop a e (i + 1) r = powLoop a e i (if e.testBit i then fmul (fsqr r) a else fsqr r) := by
  rw [powLoop, strictElem_eq]

/-- One iteration of long division (rule R76). -/
theorem pdivLoop_succ (d : Poly) (fuel : Nat) (q n : Poly) :
    pdivLoop d (fuel + 1) q n =
      if n ≠ 0 ∧ deg d ≤ deg n then
        pdivLoop d fuel (q ^^^ 1 <<< (deg n - deg d).toNat) (n ^^^ d <<< (deg n - deg d).toNat)
      else (q, n) := by
  rw [pdivLoop]
  split <;> simp

/-- One iteration of the extended Euclidean loop (rule R77). -/
theorem invLoop_succ (fuel : Nat) (r0 r1 : Poly) (t0 t1 : Elem) :
    invLoop (fuel + 1) r0 r1 t0 t1 =
      if r1 = 1 then t1
      else
        invLoop fuel r1 (pdivmod r0 r1).2 t1 (t0 ^^^ fmul (BitVec.ofNat 359 (pdivmod r0 r1).1) t1) := by
  rw [invLoop]
  split <;> simp

/-- One iteration of the trace loop (rule R81). -/
theorem traceLoop_succ (n : Nat) (t c : Elem) : traceLoop (n + 1) t c = traceLoop n (t ^^^ c) (fsqr c) := by
  rw [traceLoop]
  simp

/-- The degree of a nonzero polynomial is its highest set bit (rule R6). -/
theorem deg_of_ne_zero {p : Poly} (h : p ≠ 0) : deg p = (Nat.log2 p : Int) := if_neg h

/-- deg(0) = −1 by the spec's convention (rule R6). -/
@[simp] theorem deg_zero : deg 0 = -1 := rfl

end Sys2Proof.Machine
end

