-- ==== Sys2Proof/Laws/PerInstr.lean ====
section
/-! SUPPORT. A fact about every command as syntax, one lemma per constructor: the word the encoder writes passes the
field-by-field check of rules R47 and R50. -/

namespace Sys2Proof.Laws

/-- A packed word as a number (rule R45). -/
theorem packWord_toNat (op : BitVec 8) (rd rs1 rs2 : Reg) (imm8 : Byte) :
    (packWord op rd rs1 rs2 imm8).toNat =
      op.toNat * 2 ^ 24 + rd.val * 2 ^ 20 + rs1.val * 2 ^ 16 + rs2.val * 2 ^ 12 + imm8.toNat := by
  have hrd := rd.isLt
  have h1 := rs1.isLt
  have h2 := rs2.isLt
  have hi := imm8.isLt
  have hop := op.isLt
  simp only [packWord, BitVec.toNat_append, BitVec.toNat_ofFin, BitVec.toNat_ofNat]
  rw [← Nat.shiftLeft_add_eq_or_of_lt (by omega), ← Nat.shiftLeft_add_eq_or_of_lt (by omega),
    ← Nat.shiftLeft_add_eq_or_of_lt (by omega), ← Nat.shiftLeft_add_eq_or_of_lt (by omega),
    ← Nat.shiftLeft_add_eq_or_of_lt (by omega)]
  simp only [Nat.shiftLeft_eq]
  omega

end Sys2Proof.Laws

namespace Sys2Proof.Laws.WordForm

/-- The command's word has a listed opcode and zeros in every field its format does not use. -/
def Statement (i : Instr) : Prop := wordWellFormed (encode i) = true

/-- A packed word passes the check when its opcode has the format and its unused fields are zero. -/
theorem of_fields {op : BitVec 8} {rd rs1 rs2 : Reg} {imm8 : Byte} (fmt : Format) (hf : formatOfOpcode op.toNat = some fmt)
    (hrd : fmt.usesRd = true ∨ rd = 0) (h1 : fmt.usesRs1 = true ∨ rs1 = 0) (h2 : fmt.usesRs2 = true ∨ rs2 = 0)
    (hi : fmt.usesImm8 = true ∨ imm8 = 0) : wordWellFormed (packWord op rd rs1 rs2 imm8) = true := by
  have lop := op.isLt
  have lrd := rd.isLt
  have l1 := rs1.isLt
  have l2 := rs2.isLt
  have li := imm8.isLt
  have e := packWord_toNat op rd rs1 rs2 imm8
  have hop : (packWord op rd rs1 rs2 imm8).toNat / 2 ^ 24 = op.toNat := by omega
  have erd : (packWord op rd rs1 rs2 imm8).toNat / 2 ^ 20 % 16 = rd.val := by omega
  have e1 : (packWord op rd rs1 rs2 imm8).toNat / 2 ^ 16 % 16 = rs1.val := by omega
  have e2 : (packWord op rd rs1 rs2 imm8).toNat / 2 ^ 12 % 16 = rs2.val := by omega
  have ez : (packWord op rd rs1 rs2 imm8).toNat / 2 ^ 8 % 16 = 0 := by omega
  have ei : (packWord op rd rs1 rs2 imm8).toNat % 256 = imm8.toNat := by omega
  simp only [wordWellFormed, hop, hf, rdFieldOk, rs1FieldOk, rs2FieldOk, zFieldOk, imm8FieldOk, erd, e1, e2, ez, ei]
  rcases hrd with h | h <;> rcases h1 with h' | h' <;> rcases h2 with h'' | h'' <;> rcases hi with h''' | h''' <;>
    simp [h, h', h'', h''']

theorem zero (rd : Reg) : Statement (.zero rd) := of_fields .d rfl (.inl rfl) (.inr rfl) (.inr rfl) (.inr rfl)
theorem one (rd : Reg) : Statement (.one rd) := of_fields .d rfl (.inl rfl) (.inr rfl) (.inr rfl) (.inr rfl)
theorem mov (rd rs1 : Reg) : Statement (.mov rd rs1) := of_fields .ds rfl (.inl rfl) (.inl rfl) (.inr rfl) (.inr rfl)
theorem eq (rs1 rs2 : Reg) : Statement (.eq rs1 rs2) := of_fields .st rfl (.inr rfl) (.inl rfl) (.inl rfl) (.inr rfl)
theorem add (rd rs1 rs2 : Reg) : Statement (.add rd rs1 rs2) :=
  of_fields .dst rfl (.inl rfl) (.inl rfl) (.inl rfl) (.inr rfl)
theorem mul (rd rs1 rs2 : Reg) : Statement (.mul rd rs1 rs2) :=
  of_fields .dst rfl (.inl rfl) (.inl rfl) (.inl rfl) (.inr rfl)
theorem sqr (rd rs1 : Reg) : Statement (.sqr rd rs1) := of_fields .ds rfl (.inl rfl) (.inl rfl) (.inr rfl) (.inr rfl)
theorem powx (rd rs1 : Reg) : Statement (.powx rd rs1) := of_fields .ds rfl (.inl rfl) (.inl rfl) (.inr rfl) (.inr rfl)
theorem powf (rd rs1 rs2 : Reg) : Statement (.powf rd rs1 rs2) :=
  of_fields .dst rfl (.inl rfl) (.inl rfl) (.inl rfl) (.inr rfl)
theorem inv (rd rs1 : Reg) : Statement (.inv rd rs1) := of_fields .ds rfl (.inl rfl) (.inl rfl) (.inr rfl) (.inr rfl)
theorem trace (rs1 : Reg) : Statement (.trace rs1) := of_fields .s rfl (.inr rfl) (.inl rfl) (.inr rfl) (.inr rfl)
theorem hexb : Statement .hexb := of_fields .n rfl (.inr rfl) (.inr rfl) (.inr rfl) (.inr rfl)
theorem hexput (imm8 : Byte) : Statement (.hexput imm8) := of_fields .i rfl (.inr rfl) (.inr rfl) (.inr rfl) (.inl rfl)
theorem hexe (rd : Reg) : Statement (.hexe rd) := of_fields .d rfl (.inl rfl) (.inr rfl) (.inr rfl) (.inr rfl)
theorem tohex (rs1 : Reg) : Statement (.tohex rs1) := of_fields .s rfl (.inr rfl) (.inl rfl) (.inr rfl) (.inr rfl)
theorem hexget : Statement .hexget := of_fields .n rfl (.inr rfl) (.inr rfl) (.inr rfl) (.inr rfl)

end Sys2Proof.Laws.WordForm
end

