-- ==== Sys2Proof/Laws/State.lean ====
section
/-! SUPPORT. One lemma per field per update of the state, each true by rfl, so that no later proof unfolds a record
update; and the reads and writes of field registers. -/

namespace Sys2Proof.Machine

/-! ### writeF -/

@[simp] theorem State.writeF_f (s : State) (r : Reg) (a : Elem) : (s.writeF r a).f = s.f.set r a := rfl
@[simp] theorem State.writeF_x (s : State) (r : Reg) (a : Elem) : (s.writeF r a).x = s.x := rfl
@[simp] theorem State.writeF_sreg (s : State) (r : Reg) (a : Elem) : (s.writeF r a).sreg = s.sreg := rfl
@[simp] theorem State.writeF_ovr (s : State) (r : Reg) (a : Elem) : (s.writeF r a).ovr = s.ovr := rfl
@[simp] theorem State.writeF_err (s : State) (r : Reg) (a : Elem) : (s.writeF r a).err = s.err := rfl
@[simp] theorem State.writeF_pend (s : State) (r : Reg) (a : Elem) : (s.writeF r a).pend = s.pend := rfl
@[simp] theorem State.writeF_hin (s : State) (r : Reg) (a : Elem) : (s.writeF r a).hin = s.hin := rfl
@[simp] theorem State.writeF_hany (s : State) (r : Reg) (a : Elem) : (s.writeF r a).hany = s.hany := rfl
@[simp] theorem State.writeF_hbad (s : State) (r : Reg) (a : Elem) : (s.writeF r a).hbad = s.hbad := rfl
@[simp] theorem State.writeF_hoval (s : State) (r : Reg) (a : Elem) : (s.writeF r a).hoval = s.hoval := rfl
@[simp] theorem State.writeF_holen (s : State) (r : Reg) (a : Elem) : (s.writeF r a).holen = s.holen := rfl
@[simp] theorem State.writeF_hoptr (s : State) (r : Reg) (a : Elem) : (s.writeF r a).hoptr = s.hoptr := rfl
@[simp] theorem State.writeF_dp (s : State) (r : Reg) (a : Elem) : (s.writeF r a).dp = s.dp := rfl
@[simp] theorem State.writeF_inReset (s : State) (r : Reg) (a : Elem) : (s.writeF r a).inReset = s.inReset := rfl
@[simp] theorem State.writeF_inputs (s : State) (r : Reg) (a : Elem) : (s.writeF r a).inputs = s.inputs := rfl
@[simp] theorem State.writeF_reads (s : State) (r : Reg) (a : Elem) : (s.writeF r a).reads = s.reads := rfl
@[simp] theorem State.writeF_draws (s : State) (r : Reg) (a : Elem) : (s.writeF r a).draws = s.draws := rfl

/-! ### writeS -/

@[simp] theorem State.writeS_f (s : State) (v : Word64) : (s.writeS v).f = s.f := rfl
@[simp] theorem State.writeS_x (s : State) (v : Word64) : (s.writeS v).x = s.x := rfl
@[simp] theorem State.writeS_sreg (s : State) (v : Word64) : (s.writeS v).sreg = v := rfl
@[simp] theorem State.writeS_ovr (s : State) (v : Word64) : (s.writeS v).ovr = s.ovr := rfl
@[simp] theorem State.writeS_err (s : State) (v : Word64) : (s.writeS v).err = s.err := rfl
@[simp] theorem State.writeS_pend (s : State) (v : Word64) : (s.writeS v).pend = s.pend := rfl
@[simp] theorem State.writeS_hin (s : State) (v : Word64) : (s.writeS v).hin = s.hin := rfl
@[simp] theorem State.writeS_hany (s : State) (v : Word64) : (s.writeS v).hany = s.hany := rfl
@[simp] theorem State.writeS_hbad (s : State) (v : Word64) : (s.writeS v).hbad = s.hbad := rfl
@[simp] theorem State.writeS_hoval (s : State) (v : Word64) : (s.writeS v).hoval = s.hoval := rfl
@[simp] theorem State.writeS_holen (s : State) (v : Word64) : (s.writeS v).holen = s.holen := rfl
@[simp] theorem State.writeS_hoptr (s : State) (v : Word64) : (s.writeS v).hoptr = s.hoptr := rfl
@[simp] theorem State.writeS_dp (s : State) (v : Word64) : (s.writeS v).dp = s.dp := rfl
@[simp] theorem State.writeS_inReset (s : State) (v : Word64) : (s.writeS v).inReset = s.inReset := rfl
@[simp] theorem State.writeS_inputs (s : State) (v : Word64) : (s.writeS v).inputs = s.inputs := rfl
@[simp] theorem State.writeS_reads (s : State) (v : Word64) : (s.writeS v).reads = s.reads := rfl
@[simp] theorem State.writeS_draws (s : State) (v : Word64) : (s.writeS v).draws = s.draws := rfl

/-! ### setErr -/

@[simp] theorem State.setErr_f (s : State) (v : BitVec 4) : (s.setErr v).f = s.f := rfl
@[simp] theorem State.setErr_x (s : State) (v : BitVec 4) : (s.setErr v).x = s.x := rfl
@[simp] theorem State.setErr_sreg (s : State) (v : BitVec 4) : (s.setErr v).sreg = s.sreg := rfl
@[simp] theorem State.setErr_ovr (s : State) (v : BitVec 4) : (s.setErr v).ovr = s.ovr := rfl
@[simp] theorem State.setErr_err (s : State) (v : BitVec 4) : (s.setErr v).err = v := rfl
@[simp] theorem State.setErr_pend (s : State) (v : BitVec 4) : (s.setErr v).pend = s.pend := rfl
@[simp] theorem State.setErr_hin (s : State) (v : BitVec 4) : (s.setErr v).hin = s.hin := rfl
@[simp] theorem State.setErr_hany (s : State) (v : BitVec 4) : (s.setErr v).hany = s.hany := rfl
@[simp] theorem State.setErr_hbad (s : State) (v : BitVec 4) : (s.setErr v).hbad = s.hbad := rfl
@[simp] theorem State.setErr_hoval (s : State) (v : BitVec 4) : (s.setErr v).hoval = s.hoval := rfl
@[simp] theorem State.setErr_holen (s : State) (v : BitVec 4) : (s.setErr v).holen = s.holen := rfl
@[simp] theorem State.setErr_hoptr (s : State) (v : BitVec 4) : (s.setErr v).hoptr = s.hoptr := rfl
@[simp] theorem State.setErr_dp (s : State) (v : BitVec 4) : (s.setErr v).dp = s.dp := rfl
@[simp] theorem State.setErr_inReset (s : State) (v : BitVec 4) : (s.setErr v).inReset = s.inReset := rfl
@[simp] theorem State.setErr_inputs (s : State) (v : BitVec 4) : (s.setErr v).inputs = s.inputs := rfl
@[simp] theorem State.setErr_reads (s : State) (v : BitVec 4) : (s.setErr v).reads = s.reads := rfl
@[simp] theorem State.setErr_draws (s : State) (v : BitVec 4) : (s.setErr v).draws = s.draws := rfl

/-! ### setOvr -/

@[simp] theorem State.setOvr_f (s : State) : (s.setOvr).f = s.f := rfl
@[simp] theorem State.setOvr_x (s : State) : (s.setOvr).x = s.x := rfl
@[simp] theorem State.setOvr_sreg (s : State) : (s.setOvr).sreg = s.sreg := rfl
@[simp] theorem State.setOvr_ovr (s : State) : (s.setOvr).ovr = true := rfl
@[simp] theorem State.setOvr_err (s : State) : (s.setOvr).err = s.err := rfl
@[simp] theorem State.setOvr_pend (s : State) : (s.setOvr).pend = s.pend := rfl
@[simp] theorem State.setOvr_hin (s : State) : (s.setOvr).hin = s.hin := rfl
@[simp] theorem State.setOvr_hany (s : State) : (s.setOvr).hany = s.hany := rfl
@[simp] theorem State.setOvr_hbad (s : State) : (s.setOvr).hbad = s.hbad := rfl
@[simp] theorem State.setOvr_hoval (s : State) : (s.setOvr).hoval = s.hoval := rfl
@[simp] theorem State.setOvr_holen (s : State) : (s.setOvr).holen = s.holen := rfl
@[simp] theorem State.setOvr_hoptr (s : State) : (s.setOvr).hoptr = s.hoptr := rfl
@[simp] theorem State.setOvr_dp (s : State) : (s.setOvr).dp = s.dp := rfl
@[simp] theorem State.setOvr_inReset (s : State) : (s.setOvr).inReset = s.inReset := rfl
@[simp] theorem State.setOvr_inputs (s : State) : (s.setOvr).inputs = s.inputs := rfl
@[simp] theorem State.setOvr_reads (s : State) : (s.setOvr).reads = s.reads := rfl
@[simp] theorem State.setOvr_draws (s : State) : (s.setOvr).draws = s.draws := rfl

/-! ### complete -/

@[simp] theorem State.complete_f (s : State) : (s.complete).f = s.f := rfl
@[simp] theorem State.complete_x (s : State) : (s.complete).x = s.x := rfl
@[simp] theorem State.complete_sreg (s : State) : (s.complete).sreg = s.sreg := rfl
@[simp] theorem State.complete_ovr (s : State) : (s.complete).ovr = s.ovr := rfl
@[simp] theorem State.complete_err (s : State) : (s.complete).err = 0 := rfl
@[simp] theorem State.complete_pend (s : State) : (s.complete).pend = s.pend := rfl
@[simp] theorem State.complete_hin (s : State) : (s.complete).hin = s.hin := rfl
@[simp] theorem State.complete_hany (s : State) : (s.complete).hany = s.hany := rfl
@[simp] theorem State.complete_hbad (s : State) : (s.complete).hbad = s.hbad := rfl
@[simp] theorem State.complete_hoval (s : State) : (s.complete).hoval = s.hoval := rfl
@[simp] theorem State.complete_holen (s : State) : (s.complete).holen = s.holen := rfl
@[simp] theorem State.complete_hoptr (s : State) : (s.complete).hoptr = s.hoptr := rfl
@[simp] theorem State.complete_dp (s : State) : (s.complete).dp = s.dp := rfl
@[simp] theorem State.complete_inReset (s : State) : (s.complete).inReset = s.inReset := rfl
@[simp] theorem State.complete_inputs (s : State) : (s.complete).inputs = s.inputs := rfl
@[simp] theorem State.complete_reads (s : State) : (s.complete).reads = s.reads := rfl
@[simp] theorem State.complete_draws (s : State) : (s.complete).draws = s.draws := rfl

/-! ### raise -/

@[simp] theorem State.raise_f (s : State) (e : CoreError) : (s.raise e).f = s.f := rfl
@[simp] theorem State.raise_x (s : State) (e : CoreError) : (s.raise e).x = s.x := rfl
@[simp] theorem State.raise_sreg (s : State) (e : CoreError) : (s.raise e).sreg = s.sreg := rfl
@[simp] theorem State.raise_ovr (s : State) (e : CoreError) : (s.raise e).ovr = s.ovr := rfl
@[simp] theorem State.raise_err (s : State) (e : CoreError) : (s.raise e).err = e.code := rfl
@[simp] theorem State.raise_pend (s : State) (e : CoreError) : (s.raise e).pend = s.pend := rfl
@[simp] theorem State.raise_hin (s : State) (e : CoreError) : (s.raise e).hin = s.hin := rfl
@[simp] theorem State.raise_hany (s : State) (e : CoreError) : (s.raise e).hany = s.hany := rfl
@[simp] theorem State.raise_hbad (s : State) (e : CoreError) : (s.raise e).hbad = s.hbad := rfl
@[simp] theorem State.raise_hoval (s : State) (e : CoreError) : (s.raise e).hoval = s.hoval := rfl
@[simp] theorem State.raise_holen (s : State) (e : CoreError) : (s.raise e).holen = s.holen := rfl
@[simp] theorem State.raise_hoptr (s : State) (e : CoreError) : (s.raise e).hoptr = s.hoptr := rfl
@[simp] theorem State.raise_dp (s : State) (e : CoreError) : (s.raise e).dp = s.dp := rfl
@[simp] theorem State.raise_inReset (s : State) (e : CoreError) : (s.raise e).inReset = s.inReset := rfl
@[simp] theorem State.raise_inputs (s : State) (e : CoreError) : (s.raise e).inputs = s.inputs := rfl
@[simp] theorem State.raise_reads (s : State) (e : CoreError) : (s.raise e).reads = s.reads := rfl
@[simp] theorem State.raise_draws (s : State) (e : CoreError) : (s.raise e).draws = s.draws := rfl

/-! ### retire -/

@[simp] theorem State.retire_f (s : State) : (s.retire).f = s.f := rfl
@[simp] theorem State.retire_x (s : State) : (s.retire).x = s.x := rfl
@[simp] theorem State.retire_sreg (s : State) : (s.retire).sreg = s.sreg := rfl
@[simp] theorem State.retire_ovr (s : State) : (s.retire).ovr = s.ovr := rfl
@[simp] theorem State.retire_err (s : State) : (s.retire).err = s.err := rfl
@[simp] theorem State.retire_pend (s : State) : (s.retire).pend = none := rfl
@[simp] theorem State.retire_hin (s : State) : (s.retire).hin = s.hin := rfl
@[simp] theorem State.retire_hany (s : State) : (s.retire).hany = s.hany := rfl
@[simp] theorem State.retire_hbad (s : State) : (s.retire).hbad = s.hbad := rfl
@[simp] theorem State.retire_hoval (s : State) : (s.retire).hoval = s.hoval := rfl
@[simp] theorem State.retire_holen (s : State) : (s.retire).holen = s.holen := rfl
@[simp] theorem State.retire_hoptr (s : State) : (s.retire).hoptr = s.hoptr := rfl
@[simp] theorem State.retire_dp (s : State) : (s.retire).dp = s.dp := rfl
@[simp] theorem State.retire_inReset (s : State) : (s.retire).inReset = s.inReset := rfl
@[simp] theorem State.retire_inputs (s : State) : (s.retire).inputs = s.inputs := rfl
@[simp] theorem State.retire_reads (s : State) : (s.retire).reads = s.reads := rfl
@[simp] theorem State.retire_draws (s : State) : (s.retire).draws = s.draws := rfl

/-! ### clearHexInput -/

@[simp] theorem State.clearHexInput_f (s : State) : (s.clearHexInput).f = s.f := rfl
@[simp] theorem State.clearHexInput_x (s : State) : (s.clearHexInput).x = s.x := rfl
@[simp] theorem State.clearHexInput_sreg (s : State) : (s.clearHexInput).sreg = s.sreg := rfl
@[simp] theorem State.clearHexInput_ovr (s : State) : (s.clearHexInput).ovr = s.ovr := rfl
@[simp] theorem State.clearHexInput_err (s : State) : (s.clearHexInput).err = s.err := rfl
@[simp] theorem State.clearHexInput_pend (s : State) : (s.clearHexInput).pend = s.pend := rfl
@[simp] theorem State.clearHexInput_hin (s : State) : (s.clearHexInput).hin = 0 := rfl
@[simp] theorem State.clearHexInput_hany (s : State) : (s.clearHexInput).hany = false := rfl
@[simp] theorem State.clearHexInput_hbad (s : State) : (s.clearHexInput).hbad = false := rfl
@[simp] theorem State.clearHexInput_hoval (s : State) : (s.clearHexInput).hoval = s.hoval := rfl
@[simp] theorem State.clearHexInput_holen (s : State) : (s.clearHexInput).holen = s.holen := rfl
@[simp] theorem State.clearHexInput_hoptr (s : State) : (s.clearHexInput).hoptr = s.hoptr := rfl
@[simp] theorem State.clearHexInput_dp (s : State) : (s.clearHexInput).dp = s.dp := rfl
@[simp] theorem State.clearHexInput_inReset (s : State) : (s.clearHexInput).inReset = s.inReset := rfl
@[simp] theorem State.clearHexInput_inputs (s : State) : (s.clearHexInput).inputs = s.inputs := rfl
@[simp] theorem State.clearHexInput_reads (s : State) : (s.clearHexInput).reads = s.reads := rfl
@[simp] theorem State.clearHexInput_draws (s : State) : (s.clearHexInput).draws = s.draws := rfl

/-! ### spendAccumulator -/

@[simp] theorem State.spendAccumulator_f (s : State) : (s.spendAccumulator).f = s.f := rfl
@[simp] theorem State.spendAccumulator_x (s : State) : (s.spendAccumulator).x = s.x := rfl
@[simp] theorem State.spendAccumulator_sreg (s : State) : (s.spendAccumulator).sreg = s.sreg := rfl
@[simp] theorem State.spendAccumulator_ovr (s : State) : (s.spendAccumulator).ovr = s.ovr := rfl
@[simp] theorem State.spendAccumulator_err (s : State) : (s.spendAccumulator).err = s.err := rfl
@[simp] theorem State.spendAccumulator_pend (s : State) : (s.spendAccumulator).pend = s.pend := rfl
@[simp] theorem State.spendAccumulator_hin (s : State) : (s.spendAccumulator).hin = s.hin := rfl
@[simp] theorem State.spendAccumulator_hany (s : State) : (s.spendAccumulator).hany = s.hany := rfl
@[simp] theorem State.spendAccumulator_hbad (s : State) : (s.spendAccumulator).hbad = s.hbad := rfl
@[simp] theorem State.spendAccumulator_hoval (s : State) : (s.spendAccumulator).hoval = s.hoval := rfl
@[simp] theorem State.spendAccumulator_holen (s : State) : (s.spendAccumulator).holen = s.holen := rfl
@[simp] theorem State.spendAccumulator_hoptr (s : State) : (s.spendAccumulator).hoptr = s.hoptr := rfl
@[simp] theorem State.spendAccumulator_inReset (s : State) : (s.spendAccumulator).inReset = s.inReset := rfl
@[simp] theorem State.spendAccumulator_inputs (s : State) : (s.spendAccumulator).inputs = s.inputs := rfl
@[simp] theorem State.spendAccumulator_reads (s : State) : (s.spendAccumulator).reads = s.reads := rfl
@[simp] theorem State.spendAccumulator_draws (s : State) : (s.spendAccumulator).draws = s.draws + 1 := rfl

/-! ### spendPow -/

@[simp] theorem State.spendPow_f (s : State) : (s.spendPow).f = s.f := rfl
@[simp] theorem State.spendPow_x (s : State) : (s.spendPow).x = s.x := rfl
@[simp] theorem State.spendPow_sreg (s : State) : (s.spendPow).sreg = s.sreg := rfl
@[simp] theorem State.spendPow_ovr (s : State) : (s.spendPow).ovr = s.ovr := rfl
@[simp] theorem State.spendPow_err (s : State) : (s.spendPow).err = s.err := rfl
@[simp] theorem State.spendPow_pend (s : State) : (s.spendPow).pend = s.pend := rfl
@[simp] theorem State.spendPow_hin (s : State) : (s.spendPow).hin = s.hin := rfl
@[simp] theorem State.spendPow_hany (s : State) : (s.spendPow).hany = s.hany := rfl
@[simp] theorem State.spendPow_hbad (s : State) : (s.spendPow).hbad = s.hbad := rfl
@[simp] theorem State.spendPow_hoval (s : State) : (s.spendPow).hoval = s.hoval := rfl
@[simp] theorem State.spendPow_holen (s : State) : (s.spendPow).holen = s.holen := rfl
@[simp] theorem State.spendPow_hoptr (s : State) : (s.spendPow).hoptr = s.hoptr := rfl
@[simp] theorem State.spendPow_inReset (s : State) : (s.spendPow).inReset = s.inReset := rfl
@[simp] theorem State.spendPow_inputs (s : State) : (s.spendPow).inputs = s.inputs := rfl
@[simp] theorem State.spendPow_reads (s : State) : (s.spendPow).reads = s.reads := rfl
@[simp] theorem State.spendPow_draws (s : State) : (s.spendPow).draws = s.draws + 1 := rfl

/-! ### spendInv -/

@[simp] theorem State.spendInv_f (s : State) : (s.spendInv).f = s.f := rfl
@[simp] theorem State.spendInv_x (s : State) : (s.spendInv).x = s.x := rfl
@[simp] theorem State.spendInv_sreg (s : State) : (s.spendInv).sreg = s.sreg := rfl
@[simp] theorem State.spendInv_ovr (s : State) : (s.spendInv).ovr = s.ovr := rfl
@[simp] theorem State.spendInv_err (s : State) : (s.spendInv).err = s.err := rfl
@[simp] theorem State.spendInv_pend (s : State) : (s.spendInv).pend = s.pend := rfl
@[simp] theorem State.spendInv_hin (s : State) : (s.spendInv).hin = s.hin := rfl
@[simp] theorem State.spendInv_hany (s : State) : (s.spendInv).hany = s.hany := rfl
@[simp] theorem State.spendInv_hbad (s : State) : (s.spendInv).hbad = s.hbad := rfl
@[simp] theorem State.spendInv_hoval (s : State) : (s.spendInv).hoval = s.hoval := rfl
@[simp] theorem State.spendInv_holen (s : State) : (s.spendInv).holen = s.holen := rfl
@[simp] theorem State.spendInv_hoptr (s : State) : (s.spendInv).hoptr = s.hoptr := rfl
@[simp] theorem State.spendInv_inReset (s : State) : (s.spendInv).inReset = s.inReset := rfl
@[simp] theorem State.spendInv_inputs (s : State) : (s.spendInv).inputs = s.inputs := rfl
@[simp] theorem State.spendInv_reads (s : State) : (s.spendInv).reads = s.reads := rfl
@[simp] theorem State.spendInv_draws (s : State) : (s.spendInv).draws = s.draws + 1 := rfl

/-! ### spendTrace -/

@[simp] theorem State.spendTrace_f (s : State) : (s.spendTrace).f = s.f := rfl
@[simp] theorem State.spendTrace_x (s : State) : (s.spendTrace).x = s.x := rfl
@[simp] theorem State.spendTrace_sreg (s : State) : (s.spendTrace).sreg = s.sreg := rfl
@[simp] theorem State.spendTrace_ovr (s : State) : (s.spendTrace).ovr = s.ovr := rfl
@[simp] theorem State.spendTrace_err (s : State) : (s.spendTrace).err = s.err := rfl
@[simp] theorem State.spendTrace_pend (s : State) : (s.spendTrace).pend = s.pend := rfl
@[simp] theorem State.spendTrace_hin (s : State) : (s.spendTrace).hin = s.hin := rfl
@[simp] theorem State.spendTrace_hany (s : State) : (s.spendTrace).hany = s.hany := rfl
@[simp] theorem State.spendTrace_hbad (s : State) : (s.spendTrace).hbad = s.hbad := rfl
@[simp] theorem State.spendTrace_hoval (s : State) : (s.spendTrace).hoval = s.hoval := rfl
@[simp] theorem State.spendTrace_holen (s : State) : (s.spendTrace).holen = s.holen := rfl
@[simp] theorem State.spendTrace_hoptr (s : State) : (s.spendTrace).hoptr = s.hoptr := rfl
@[simp] theorem State.spendTrace_inReset (s : State) : (s.spendTrace).inReset = s.inReset := rfl
@[simp] theorem State.spendTrace_inputs (s : State) : (s.spendTrace).inputs = s.inputs := rfl
@[simp] theorem State.spendTrace_reads (s : State) : (s.spendTrace).reads = s.reads := rfl
@[simp] theorem State.spendTrace_draws (s : State) : (s.spendTrace).draws = s.draws + 1 := rfl

/-! ### applyReset -/

@[simp] theorem State.applyReset_f (s : State) (level : Bool) : (s.applyReset level).f = State.reset.f := rfl
@[simp] theorem State.applyReset_x (s : State) (level : Bool) : (s.applyReset level).x = State.reset.x := rfl
@[simp] theorem State.applyReset_sreg (s : State) (level : Bool) : (s.applyReset level).sreg = State.reset.sreg := rfl
@[simp] theorem State.applyReset_ovr (s : State) (level : Bool) : (s.applyReset level).ovr = State.reset.ovr := rfl
@[simp] theorem State.applyReset_err (s : State) (level : Bool) : (s.applyReset level).err = State.reset.err := rfl
@[simp] theorem State.applyReset_pend (s : State) (level : Bool) : (s.applyReset level).pend = State.reset.pend := rfl
@[simp] theorem State.applyReset_hin (s : State) (level : Bool) : (s.applyReset level).hin = State.reset.hin := rfl
@[simp] theorem State.applyReset_hany (s : State) (level : Bool) : (s.applyReset level).hany = State.reset.hany := rfl
@[simp] theorem State.applyReset_hbad (s : State) (level : Bool) : (s.applyReset level).hbad = State.reset.hbad := rfl
@[simp] theorem State.applyReset_hoval (s : State) (level : Bool) : (s.applyReset level).hoval = State.reset.hoval := rfl
@[simp] theorem State.applyReset_holen (s : State) (level : Bool) : (s.applyReset level).holen = State.reset.holen := rfl
@[simp] theorem State.applyReset_hoptr (s : State) (level : Bool) : (s.applyReset level).hoptr = State.reset.hoptr := rfl
@[simp] theorem State.applyReset_dp (s : State) (level : Bool) : (s.applyReset level).dp = State.reset.dp := rfl
@[simp] theorem State.applyReset_inReset (s : State) (level : Bool) : (s.applyReset level).inReset = level := rfl
@[simp] theorem State.applyReset_inputs (s : State) (level : Bool) : (s.applyReset level).inputs = s.inputs := rfl
@[simp] theorem State.applyReset_reads (s : State) (level : Bool) : (s.applyReset level).reads = s.reads := rfl
@[simp] theorem State.applyReset_draws (s : State) (level : Bool) : (s.applyReset level).draws = s.draws := rfl

/-! ### The datapath registers a command leaves unspecified -/

@[simp] theorem State.spendAccumulator_dp (s : State) :
    s.spendAccumulator.dp = { s.dp with acc := Config.freeBits 768 s.draws 0 } := rfl

@[simp] theorem State.spendPow_dp (s : State) :
    s.spendPow.dp =
      { s.dp with
        acc := Config.freeBits 768 s.draws 0
        powResult := Config.freeBits 359 s.draws 7
        powIndex := Config.freeBits 9 s.draws 8 } := rfl

@[simp] theorem State.spendInv_dp (s : State) :
    s.spendInv.dp =
      { s.dp with
        acc := Config.freeBits 768 s.draws 0
        r0 := Config.freeBits 360 s.draws 1
        r1 := Config.freeBits 359 s.draws 2
        t0 := Config.freeBits 359 s.draws 3
        t1 := Config.freeBits 359 s.draws 4
        q := Config.freeBits 359 s.draws 5
        r := Config.freeBits 359 s.draws 6 } := rfl

@[simp] theorem State.spendTrace_dp (s : State) :
    s.spendTrace.dp =
      { s.dp with
        acc := Config.freeBits 768 s.draws 0
        traceSum := Config.freeBits 359 s.draws 9
        traceConj := Config.freeBits 359 s.draws 10 } := rfl

/-! ### Field registers and STATUS -/

/-- A field register just written reads as written. -/
@[simp] theorem State.readF_writeF_same (s : State) (r : Reg) (a : Elem) : (s.writeF r a).readF r = a := by
  simp [State.readF, State.writeF]

/-- Writing one field register leaves the others alone (rule R9: no banks, nothing shared). -/
theorem State.readF_writeF_other (s : State) (r q : Reg) (a : Elem) (h : q ≠ r) : (s.writeF r a).readF q = s.readF q := by
  have h' : r.val ≠ q.val := fun e => h (Fin.ext e.symm)
  simp [State.readF, State.writeF, Vector.getElem_set_ne _ _ h']

/-- A read of any field register after a write. -/
theorem State.readF_writeF (s : State) (r q : Reg) (a : Elem) :
    (s.writeF r a).readF q = if q = r then a else s.readF q := by
  by_cases h : q = r
  · subst h; simp
  · simp [h, State.readF_writeF_other]

/-- Two states with the same field registers read alike. -/
theorem State.readF_congr {s t : State} (h : t.f = s.f) (r : Reg) : t.readF r = s.readF r := by
  simp [State.readF, h]

/-- The field registers are known by their reads. -/
theorem State.f_ext {s t : State} (h : ∀ r, t.readF r = s.readF r) : t.f = s.f := by
  apply Vector.ext
  intro i hi
  exact h ⟨i, hi⟩

@[simp] theorem State.readF_writeS (s : State) (v : Word64) (q : Reg) : (s.writeS v).readF q = s.readF q := rfl
@[simp] theorem State.readF_setErr (s : State) (v : BitVec 4) (q : Reg) : (s.setErr v).readF q = s.readF q := rfl
@[simp] theorem State.readF_setOvr (s : State) (q : Reg) : (s.setOvr).readF q = s.readF q := rfl
@[simp] theorem State.readF_complete (s : State) (q : Reg) : (s.complete).readF q = s.readF q := rfl
@[simp] theorem State.readF_raise (s : State) (e : CoreError) (q : Reg) : (s.raise e).readF q = s.readF q := rfl
@[simp] theorem State.readF_retire (s : State) (q : Reg) : (s.retire).readF q = s.readF q := rfl
@[simp] theorem State.readF_clearHexInput (s : State) (q : Reg) : (s.clearHexInput).readF q = s.readF q := rfl
@[simp] theorem State.readF_spendAccumulator (s : State) (q : Reg) : (s.spendAccumulator).readF q = s.readF q := rfl
@[simp] theorem State.readF_spendPow (s : State) (q : Reg) : (s.spendPow).readF q = s.readF q := rfl
@[simp] theorem State.readF_spendInv (s : State) (q : Reg) : (s.spendInv).readF q = s.readF q := rfl
@[simp] theorem State.readF_spendTrace (s : State) (q : Reg) : (s.spendTrace).readF q = s.readF q := rfl

/-- Every field register is zero after reset (rule R28). -/
@[simp] theorem State.readF_reset (r : Reg) : State.reset.readF r = 0 := by
  simp [State.readF, State.reset]

/-- BUSY is PEND's valid bit (rule R18). -/
theorem State.busy_eq (s : State) : s.busy = s.pend.isSome := rfl

/-- BUSY reads 0 exactly when PEND is empty (rule R18). -/
theorem State.busy_eq_false_iff (s : State) : s.busy = false ↔ s.pend = none := by
  simp [State.busy]

/-- A write to STATUS changes at most OVR (rule R17). -/
theorem State.writeStatus_cases (s : State) (v : Word64) :
    s.writeStatus v = { s with ovr := s.ovr && !v.getLsbD 1 } := by
  unfold State.writeStatus
  cases h : v.getLsbD 1 <;> simp

end Sys2Proof.Machine
end

