-- ==== Sys2Proof/Laws/Step.lean ====
section
/-! SUPPORT. What each shared operation of the window, the bus and the engine can do, said once: provers cite these and do
not unfold the operation. -/

namespace Sys2Proof.Machine

/-- A read records one value and draws at most one; nothing else changes (rules R33, R37, R38). -/
theorem State.hostRead_cases (s : State) (reg : WindowReg) :
    (s.hostRead reg = { s with reads := s.readReg reg :: s.reads } ∧ (s.busy = false ∨ reg.isResult = false)) ∨
    (s.hostRead reg = { s with reads := Config.freeRead s.draws :: s.reads, draws := s.draws + 1 } ∧
      s.busy = true ∧ reg.isResult = true) := by
  unfold State.hostRead
  cases hb : s.busy <;> cases hr : reg.isResult <;> simp

/-- A write that BUSY drops sets OVR and nothing else (rule R40). -/
theorem State.unlessBusy_of_busy {s : State} (h : s.busy = true) (accepted : State) :
    s.unlessBusy accepted = s.setOvr := by
  simp [State.unlessBusy, h]

/-- With PEND empty the write is accepted (rule R40). -/
theorem State.unlessBusy_of_idle {s : State} (h : s.busy = false) (accepted : State) :
    s.unlessBusy accepted = accepted := by
  simp [State.unlessBusy, h]

/-- What one host write can do (rules R34 to R40). -/
theorem State.hostWrite_cases (s : State) (reg : WindowReg) (v : Word64) :
    s.hostWrite reg v = s ∨ s.hostWrite reg v = s.setOvr ∧ s.busy = true ∨
    reg = .status ∧ s.hostWrite reg v = { s with ovr := s.ovr && !v.getLsbD 1 } ∨
    s.busy = false ∧
      (reg = .cmd ∧ s.hostWrite reg v = { s with pend := some (v.setWidth 32) } ∨
       reg = .x ∧ s.hostWrite reg v = { s with x := v } ∨
       ∃ r j, reg = .fword r j ∧ s.hostWrite reg v = s.writeF r (setElemWord (s.readF r) j v)) := by
  cases hb : s.busy <;> cases reg <;>
    simp [State.hostWrite, State.unlessBusy, State.writeStatus_cases, hb]

/-- An access that gives a next state was defined, with reset released (rules R32, R108). -/
theorem State.access_next {s t : State} {addr : HostAddr} {size : Nat} {effect : WindowReg → State}
    (h : s.access addr size effect = .next t) :
    s.inReset = false ∧ size = 8 ∧ ∃ o, addr.offset? = some o ∧ o % 8 = 0 ∧ t = effect (regAt o) := by
  unfold State.access at h
  split at h
  · cases h
  · rename_i hr
    split at h
    · cases h
    · rename_i hw
      split at h
      · cases h
      · rename_i o ho
        split at h
        · rename_i ha
          refine ⟨by simpa using hr, by simpa [accessWidthOk] using hw, o, ho, by simpa [accessAlignedOk] using ha, ?_⟩
          cases h; rfl
        · cases h

/-- A defined access takes effect on the register it names (rule R32). -/
theorem State.access_of_defined {s : State} {addr : HostAddr} {o : Nat} (effect : WindowReg → State)
    (hr : s.inReset = false) (ho : addr.offset? = some o) (ha : o % 8 = 0) :
    s.access addr 8 effect = .next (effect (regAt o)) := by
  simp [State.access, hr, ho, accessWidthOk, accessAlignedOk, ha]

/-- No access faults. -/
theorem State.access_ne_fault (s : State) (addr : HostAddr) (size : Nat) (effect : WindowReg → State) (why : Fault) :
    s.access addr size effect ≠ .fault why := nomatch why

/-- A word that is executed either is illegal and only reported, or is exec of the command it decodes to; PEND is empty
afterwards (rules R52, R97). -/
theorem executeWord_next {w : Word32} {s t : State} (h : executeWord w s = .next t) :
    (decode w = none ∧ t = (s.raise .illegalCommand).retire) ∨
    ∃ i u, decode w = some i ∧ exec i s = .next u ∧ t = u.retire := by
  unfold executeWord at h
  split at h
  · rename_i hd
    cases h
    exact .inl ⟨hd, rfl⟩
  · rename_i i hd
    split at h
    · rename_i u hu
      cases h
      exact .inr ⟨i, u, hd, hu, rfl⟩
    · cases h
    · cases h

/-- What the engine's turn can do: nothing, or execute the latched word (rule R52). -/
theorem engineStep_cases (s : State) :
    (engineStep s = .next s ∧ (s.inReset = true ∨ s.pend = none)) ∨
    ∃ w, s.inReset = false ∧ s.pend = some w ∧ engineStep s = executeWord w s := by
  unfold engineStep
  cases hr : s.inReset
  · cases hp : s.pend with
    | none => exact .inl ⟨by simp, .inr rfl⟩
    | some w => exact .inr ⟨w, rfl, rfl, by simp⟩
  · exact .inl ⟨by simp, .inl rfl⟩

/-- With reset released the engine's turn executes a latched word (rule R52). -/
theorem engineStep_of_latched {s : State} {w : Word32} (hp : s.pend = some w) (hr : s.inReset = false) :
    engineStep s = executeWord w s := by
  unfold engineStep
  rw [hr, hp]
  rfl

/-- A host write leaves a latched word, the inputs and the reset input as they are (rule R43). -/
theorem State.hostWrite_keeps_latched (s : State) (reg : WindowReg) (v : Word64) {w : Word32} (hp : s.pend = some w) :
    (s.hostWrite reg v).pend = some w ∧ (s.hostWrite reg v).inputs = s.inputs ∧
      (s.hostWrite reg v).inReset = s.inReset := by
  rcases s.hostWrite_cases reg v with e | ⟨e, -⟩ | ⟨-, e⟩ | ⟨e, -⟩
  · rw [e]; exact ⟨hp, rfl, rfl⟩
  · rw [e]; exact ⟨hp, rfl, rfl⟩
  · rw [e]; exact ⟨hp, rfl, rfl⟩
  · simp [State.busy, hp] at e

/-- What a step that goes on can do, one case per input. -/
theorem step_next {s t : State} (h : step s = .next t) :
    (s.inputs = [] ∧ engineStep s = .next t) ∨
    ∃ i rest, s.inputs = i :: rest ∧
      ((∃ addr size v, i = .write addr size v ∧ { s with inputs := rest }.memWrite addr size v = .next t) ∨
       (∃ addr size, i = .read addr size ∧ { s with inputs := rest }.memRead addr size = .next t) ∨
       (i = .poll ∧ s.busy = true ∧ s.inReset = false ∧ engineStep s = .next t) ∨
       (i = .poll ∧ s.busy = false ∧ { s with inputs := rest }.memRead (.window 0x008) 8 = .next t) ∨
       (i = .engineTurn ∧ engineStep { s with inputs := rest } = .next t) ∨
       (i = .resetAssert ∧ t = { s with inputs := rest }.applyReset true) ∨
       (i = .resetRelease ∧ s.inReset = true ∧ t = { s with inputs := rest }.applyReset false) ∨
       (i = .resetRelease ∧ s.inReset = false ∧ t = { s with inputs := rest })) := by
  unfold step at h
  split at h
  · rename_i hi
    exact .inl ⟨hi, h⟩
  · rename_i i rest hi
    refine .inr ⟨i, rest, hi, ?_⟩
    cases i with
    | write addr size v => exact .inl ⟨addr, size, v, rfl, h⟩
    | read addr size => exact .inr (.inl ⟨addr, size, rfl, h⟩)
    | poll =>
      simp only [inputStep, pollStep] at h
      split at h
      · rename_i hb
        simp at hb
        exact .inr (.inr (.inl ⟨rfl, hb.1, hb.2, h⟩))
      · rename_i hb
        have hr := (State.access_next h).1
        have hb' : s.busy = false := by
          cases hbusy : s.busy
          · rfl
          · exact absurd (by simpa [hbusy] using hr) (by simpa [hbusy] using hb)
        exact .inr (.inr (.inr (.inl ⟨rfl, hb', h⟩)))
    | engineTurn => exact .inr (.inr (.inr (.inr (.inl ⟨rfl, h⟩))))
    | resetAssert =>
      cases h
      exact .inr (.inr (.inr (.inr (.inr (.inl ⟨rfl, rfl⟩)))))
    | resetRelease =>
      cases hr : s.inReset
      · simp only [inputStep, hr] at h
        cases h
        exact .inr (.inr (.inr (.inr (.inr (.inr (.inr ⟨rfl, rfl, rfl⟩))))))
      · simp only [inputStep, hr] at h
        cases h
        exact .inr (.inr (.inr (.inr (.inr (.inr (.inl ⟨rfl, rfl, rfl⟩))))))

end Sys2Proof.Machine
end

