-- ==== Sys2Proof/Laws/Safety.lean ====
section
/-! SUPPORT. The small lemmas of Safety.lean: what two states that agree have in common, and what follows a run's end. -/

namespace Sys2Proof.Machine

theorem State.agreesWith_refl (s : State) : s.AgreesWith s := rfl

/-- A state agrees with another exactly if it is the other but for the datapath registers and the draw counter. -/
theorem State.agreesWith_iff {t u : State} : t.AgreesWith u ↔ t = { u with dp := t.dp, draws := t.draws } := by
  constructor
  · intro h
    rw [← h]
  · intro h
    rw [h]
    rfl

/-- A command that answers a state completes in that state. -/
theorem completesAs_of_exec {i : Instr} {s t : State} (h : exec i s = .next t) : CompletesAs i t s :=
  ⟨t, h, t.agreesWith_refl⟩

/-- States that agree hold the same field registers. -/
theorem State.readF_of_agreesWith {t u : State} (h : t.AgreesWith u) (r : Reg) : t.readF r = u.readF r := by
  rw [State.agreesWith_iff.mp h]
  rfl

/-- States that agree show the host the same values in every register of the window (rules R34 to R39). -/
theorem State.readReg_of_agreesWith {t u : State} (h : t.AgreesWith u) (reg : WindowReg) :
    t.readReg reg = u.readReg reg := by
  rw [State.agreesWith_iff.mp h]
  cases reg <;> rfl

/-- After a run's end nothing is refused (rules R32 and R108 refuse accesses only, and none is left). -/
theorem State.exists_step_of_ended {s : State} (h : s.ended) : ∃ t, step s = .next t := by
  obtain ⟨hi, hp⟩ := h
  unfold step
  split
  · exact ⟨s, by simp [engineStep, hp]⟩
  · rename_i i rest hin
    have hh := hi i (by simp [hin])
    cases i with
    | write addr size v => cases hh
    | read addr size => cases hh
    | poll => cases hh
    | engineTurn => exact ⟨{ s with inputs := rest }, by simp [inputStep, engineStep, hp]⟩
    | resetAssert => exact ⟨_, rfl⟩
    | resetRelease => exact ⟨_, rfl⟩

/-- After a run's end a step changes nothing but the inputs, unless it is an edge of the reset input; the run stays ended
(rule R114). -/
theorem State.ended_step {s t : State} (h : s.ended) (hs : step s = .next t) :
    t.ended ∧
      ({ t with inputs := s.inputs } = s ∨
        ∃ i rest, s.inputs = i :: rest ∧ (i = .resetAssert ∨ i = .resetRelease)) := by
  obtain ⟨hi, hp⟩ := h
  have idle : ∀ u : State, u.pend = none → engineStep u = .next u := fun u hu => by simp [engineStep, hu]
  rcases step_next hs with ⟨-, he⟩ | ⟨i, rest, hin, hc⟩
  · rw [idle s hp] at he
    cases he
    exact ⟨⟨hi, hp⟩, .inl rfl⟩
  · have hhost : i.ofHost = false := hi i (by simp [hin])
    have hrest : ∀ j ∈ rest, j.ofHost = false := fun j hj => hi j (by simp [hin, hj])
    rcases hc with ⟨_, _, _, rfl, -⟩ | ⟨_, _, rfl, -⟩ | ⟨rfl, -⟩ | ⟨rfl, -⟩ | ⟨-, he⟩ | ⟨rfl, rfl⟩ | ⟨rfl, -, rfl⟩ |
      ⟨rfl, -, rfl⟩
    · cases hhost
    · cases hhost
    · cases hhost
    · cases hhost
    · rw [idle { s with inputs := rest } hp] at he
      cases he
      exact ⟨⟨hrest, hp⟩, .inl rfl⟩
    · exact ⟨⟨hrest, rfl⟩, .inr ⟨_, rest, hin, .inl rfl⟩⟩
    · exact ⟨⟨hrest, rfl⟩, .inr ⟨_, rest, hin, .inr rfl⟩⟩
    · exact ⟨⟨hrest, hp⟩, .inl rfl⟩

end Sys2Proof.Machine
end

