-- ==== Sys2Proof/Machine/Asm.lean ====
section
/-! DEFINITION. The assembly syntax of rule R54 and the pseudo-instructions of rule R55: what a line of a host program
stands for, as the inputs it puts before the block. The machine's step does not use this file. -/

namespace Sys2Proof.Machine

/-- `W offset, value` (rule R54): a 64-bit write at an offset from CORE_BASE. -/
def writeLine (offset : Nat) (value : Word64) : List Input := [.write (.window offset) 8 value]

/-- `R offset` (rule R54): a 64-bit read at an offset from CORE_BASE. -/
def readLine (offset : Nat) : List Input := [.read (.window offset) 8]

/-- A command line: "`W 0x000, <word>` followed by POLL" (spec/95_test_vectors.md section 3). -/
def commandLine (i : Instr) : List Input := writeLine 0x000 ((encode i).setWidth 64) ++ [.poll]

/-- The nine pseudo-instructions of rule R55. `sthex` carries the number of HEXGETs, the S the host read after TOHEX. -/
inductive Pseudo where
  | adda  (fd fs : Reg)
  | sub   (fd fa fb : Reg)
  | neg   (fd fs : Reg)
  | clr   (fd : Reg)
  | frob  (fd fs : Reg)
  | div   (fd fa fb ft : Reg)
  | ldhex (fd : Reg) (chars : List Byte)
  | powi  (fd fs : Reg) (n : Nat)
  | sthex (fs : Reg) (count : Nat)
  deriving DecidableEq, Repr

/-- Rule R55's conditions: DIV's scratch register "must differ from fa", and POWI's "n is 0 to 2^64 − 1". -/
def Pseudo.wellFormed : Pseudo → Bool
  | .div _ fa _ ft => ft != fa
  | .powi _ _ n => n < 2 ^ 64
  | .adda .. | .sub .. | .neg .. | .clr .. | .frob .. | .ldhex .. | .sthex .. => true

/-- The expansions of rule R55, cut where the host may look at STATUS and stop: "the host must check ERR after each step
of DIV and LDHEX". -/
def Pseudo.segments : Pseudo → List (List Input)
  | .adda fd fs => [commandLine (.add fd fd fs)]
  | .sub fd fa fb => [commandLine (.add fd fa fb)]
  | .neg fd fs => [commandLine (.mov fd fs)]
  | .clr fd => [commandLine (.zero fd)]
  | .frob fd fs => [commandLine (.sqr fd fs)]
  | .div fd fa fb ft => [commandLine (.inv ft fb), commandLine (.mul fd fa ft)]
  | .ldhex fd chars => [commandLine .hexb] ++ chars.map (fun c => commandLine (.hexput c)) ++ [commandLine (.hexe fd)]
  | .powi fd fs n => [writeLine 0x010 (BitVec.ofNat 64 n), commandLine (.powx fd fs)]
  | .sthex fs count =>
    [commandLine (.tohex fs) ++ readLine 0x018] ++ List.replicate count (commandLine .hexget ++ readLine 0x018)

/-- The whole expansion, for a host that does not stop. -/
def Pseudo.expand (p : Pseudo) : List Input := p.segments.flatten

/-- Where the cutting of a line stands: outside literals, in a string, at a character literal's character, after it. -/
inductive LexMode where
  | plain | string | character | characterEnd
  deriving DecidableEq, Repr

/-- A line's operands, cut at commas; a `;` outside a character or string literal starts a comment (rule R54). `cur` is
the operand read so far, last character first. -/
def cutOperands (mode : LexMode) (cur : List Char) : List Char → List (List Char)
  | [] => [cur.reverse]
  | c :: rest =>
    match mode with
    | .string => cutOperands (if c = '"' then .plain else .string) (c :: cur) rest
    | .character => cutOperands .characterEnd (c :: cur) rest
    | .characterEnd => cutOperands .plain (c :: cur) rest
    | .plain =>
      if c = ';' then [cur.reverse]
      else if c = ',' then cur.reverse :: cutOperands .plain [] rest
      else cutOperands (if c = '"' then .string else if c = '\'' then .character else .plain) (c :: cur) rest

/-- A text without the blanks at its ends. -/
def trimBlanks (cs : List Char) : List Char :=
  ((cs.dropWhile (· = ' ')).reverse.dropWhile (· = ' ')).reverse

/-- The value of a digit, of either case. -/
def charDigit (c : Char) : Option Nat :=
  if '0' ≤ c ∧ c ≤ '9' then some (c.toNat - 48)
  else if 'a' ≤ c ∧ c ≤ 'f' then some (c.toNat - 87)
  else if 'A' ≤ c ∧ c ≤ 'F' then some (c.toNat - 55)
  else none

/-- The number that digits of a base spell after `acc`; an underscore only groups them. DESIGN CHOICE
(notes/assumptions/14.md): it may also stand first or last, and a number of underscores alone is 0. -/
def digitsFrom (base : Nat) (acc : Nat) : List Char → Option Nat
  | [] => some acc
  | '_' :: cs => digitsFrom base acc cs
  | c :: cs =>
    match charDigit c with
    | some v => if v < base then digitsFrom base (base * acc + v) cs else none
    | none => none

/-- A number in decimal or `0x` hexadecimal (rule R54). -/
def parseNumber : List Char → Option Nat
  | [] => none
  | ['0', 'x'] => none
  | '0' :: 'x' :: cs => digitsFrom 16 0 cs
  | cs => digitsFrom 10 0 cs

/-- A field register, `f0` to `f15` (rule R54). -/
def parseReg : List Char → Option Reg
  | ['f', c] => if '0' ≤ c ∧ c ≤ '9' then some (Fin.ofNat 16 (c.toNat - 48)) else none
  | ['f', '1', c] => if '0' ≤ c ∧ c ≤ '5' then some (Fin.ofNat 16 (c.toNat - 48 + 10)) else none
  | _ => none

/-- HEXPUT's operand: a character literal, or a number from 0 to 255 (rule R54). -/
def parseCharOperand : List Char → Option Byte
  | ['\'', c, '\''] => if c.toNat < 256 then some (BitVec.ofNat 8 c.toNat) else none
  | cs => (parseNumber cs).bind fun n => if n < 256 then some (BitVec.ofNat 8 n) else none

/-- LDHEX's string operand (rule R55), each character a byte. -/
def parseString (cs : List Char) : Option (List Byte) :=
  match cs with
  | '"' :: rest =>
    if rest.getLast? = some '"' ∧ rest.dropLast.all (fun c => c.toNat < 256 && c != '"') = true then
      some (rest.dropLast.map fun c => BitVec.ofNat 8 c.toNat)
    else none
  | _ => none

/-- Operands that are one field register. -/
def regs1 : List (List Char) → Option Reg
  | [a] => parseReg a
  | _ => none

/-- Operands that are two field registers. -/
def regs2 : List (List Char) → Option (Reg × Reg)
  | [a, b] => (parseReg a).bind fun a => (parseReg b).map fun b => (a, b)
  | _ => none

/-- Operands that are three field registers. -/
def regs3 : List (List Char) → Option (Reg × Reg × Reg)
  | [a, b, c] => (parseReg a).bind fun a => (regs2 [b, c]).map fun bc => (a, bc)
  | _ => none

/-- A command of rule R48 from its mnemonic (in capitals) and its operands, destination first (rule R54). -/
def parseCommand (mnemonic : List Char) (ops : List (List Char)) : Option Instr :=
  if mnemonic = "ZERO".toList then (regs1 ops).map .zero
  else if mnemonic = "ONE".toList then (regs1 ops).map .one
  else if mnemonic = "MOV".toList then (regs2 ops).map fun r => .mov r.1 r.2
  else if mnemonic = "EQ".toList then (regs2 ops).map fun r => .eq r.1 r.2
  else if mnemonic = "ADD".toList then (regs3 ops).map fun r => .add r.1 r.2.1 r.2.2
  else if mnemonic = "MUL".toList then (regs3 ops).map fun r => .mul r.1 r.2.1 r.2.2
  else if mnemonic = "SQR".toList then (regs2 ops).map fun r => .sqr r.1 r.2
  else if mnemonic = "POWX".toList then (regs2 ops).map fun r => .powx r.1 r.2
  else if mnemonic = "POWF".toList then (regs3 ops).map fun r => .powf r.1 r.2.1 r.2.2
  else if mnemonic = "INV".toList then (regs2 ops).map fun r => .inv r.1 r.2
  else if mnemonic = "TRACE".toList then (regs1 ops).map .trace
  else if mnemonic = "HEXB".toList then (if ops = [] then some .hexb else none)
  else if mnemonic = "HEXPUT".toList then
    match ops with
    | [c] => (parseCharOperand c).map .hexput
    | _ => none
  else if mnemonic = "HEXE".toList then (regs1 ops).map .hexe
  else if mnemonic = "TOHEX".toList then (regs1 ops).map .tohex
  else if mnemonic = "HEXGET".toList then (if ops = [] then some .hexget else none)
  else none

/-- A pseudo-instruction of rule R55. STHEX's count is not in the text: the host reads it from S, here `count`. -/
def parsePseudo (count : Nat) (mnemonic : List Char) (ops : List (List Char)) : Option Pseudo :=
  if mnemonic = "ADDA".toList then (regs2 ops).map fun r => .adda r.1 r.2
  else if mnemonic = "SUB".toList then (regs3 ops).map fun r => .sub r.1 r.2.1 r.2.2
  else if mnemonic = "NEG".toList then (regs2 ops).map fun r => .neg r.1 r.2
  else if mnemonic = "CLR".toList then (regs1 ops).map .clr
  else if mnemonic = "FROB".toList then (regs2 ops).map fun r => .frob r.1 r.2
  else if mnemonic = "DIV".toList then
    match ops with
    | [d, a, b, t] => (regs3 [d, a, b]).bind fun r => (parseReg t).map fun t => .div r.1 r.2.1 r.2.2 t
    | _ => none
  else if mnemonic = "LDHEX".toList then
    match ops with
    | [d, str] => (parseReg d).bind fun d => (parseString str).map fun cs => .ldhex d cs
    | _ => none
  else if mnemonic = "POWI".toList then
    match ops with
    | [d, a, n] => (regs2 [d, a]).bind fun r => (parseNumber n).map fun n => .powi r.1 r.2 n
    | _ => none
  else if mnemonic = "STHEX".toList then (regs1 ops).map fun fs => .sthex fs count
  else none

/-- The host's own lines `W`, `R` and `POLL` (rule R54). -/
def parseHostLine (mnemonic : List Char) (ops : List (List Char)) : Option (List Input) :=
  if mnemonic = "W".toList then
    match ops with
    | [o, v] =>
      (parseNumber o).bind fun o =>
        (parseNumber v).bind fun v => if v < 2 ^ 64 then some (writeLine o (BitVec.ofNat 64 v)) else none
    | _ => none
  else if mnemonic = "R".toList then
    match ops with
    | [o] => (parseNumber o).map readLine
    | _ => none
  else if mnemonic = "POLL".toList then (if ops = [] then some [.poll] else none)
  else none

/-- The inputs a line of a host program stands for (rules R54, R55): `none` when it is no line of the syntax. Mnemonics
are case-insensitive; what follows a `;` is a comment. DESIGN CHOICE (notes/assumptions/14.md): a mnemonic ends at the first
character that is no letter, so no blank need follow it, and the names of pseudo-instructions and host
lines are case-insensitive too. -/
def assembleLine (count : Nat) (line : List Char) : Option (List Input) :=
  let body := line.dropWhile (· = ' ')
  let mnemonic := (body.takeWhile fun c => c.isAlpha).map Char.toUpper
  let ops :=
    match (cutOperands .plain [] (body.dropWhile fun c => c.isAlpha)).map trimBlanks with
    | [[]] => []
    | ops => ops
  if mnemonic = [] then (if ops = [] then some [] else none)
  else
    match parseCommand mnemonic ops with
    | some i => some (commandLine i)
    | none =>
      match parsePseudo count mnemonic ops with
      | some p => if p.wellFormed then some p.expand else none
      | none => parseHostLine mnemonic ops

end Sys2Proof.Machine
end

