-- ==== Sys2Proof/Tests/Slice0.lean ====
section
/-! SUPPORT. The model's own tests. Expected values are the spec's: the examples of spec/30_encoding.md section 6, of the
rules of spec/40 to 46, and the vectors of spec/95_test_vectors.md; each comment names the place. The last part gives, for
every statement with hypotheses, states and operands that meet them. -/

namespace Sys2Proof.Tests

open Sys2Proof.Machine

/-- What `g` shows of the state a step goes on with. -/
def shown {α : Type} (o : Host.Outcome State Fault Refusal) (g : State → α) : Option α :=
  match o with
  | .next t => some (g t)
  | .fault _ => none
  | .refused _ => none

/-- An outcome that shows anything is a next state. -/
theorem exists_next {α : Type} {o : Host.Outcome State Fault Refusal} {g : State → α} (h : (shown o g).isSome = true) :
    ∃ t, o = .next t := by
  cases o with
  | next t => exact ⟨t, rfl⟩
  | fault why => cases why
  | refused why => cases h

/-- The reset state with one field register loaded. -/
def loaded (r : Reg) (a : Elem) : State := State.reset.writeF r a

/-- The reset state with two field registers loaded. -/
def loaded2 (r q : Reg) (a b : Elem) : State := (loaded r a).writeF q b

/-- The reset state with a command latched. -/
def latched (w : Word32) : State := { State.reset with pend := some w }

/-- The reset state while the reset input is asserted. -/
def held : State := State.reset.applyReset true

/-- Operand A of spec/95_test_vectors.md. -/
def operandA : Elem :=
  0x123456789abcdef0123456789abcdef0123456789abcdef0123456789abcdef0123456789abcdef0123456789a

/-- Operand B of spec/95_test_vectors.md. -/
def operandB : Elem :=
  0x7edcba9876543210fedcba9876543210fedcba9876543210fedcba9876543210fedcba9876543210fedcbe9863

/-! ### Checks of form: one ill-formed term for each check -/

-- spec/95_test_vectors.md section 2.8 (the word checks), rules R29 and R32 (the access checks), R55 (DIV, POWI)
theorem test_unlisted_opcode_refused : wordWellFormed 0x05000000#32 = false := by decide
theorem test_rd_in_format_st_refused : rdFieldOk .st 0x04100000#32 = false := by decide
theorem test_rs1_in_format_d_refused : rs1FieldOk .d 0x01010000#32 = false := by decide
theorem test_rs2_in_format_s_refused : rs2FieldOk .s 0x1600F000#32 = false := by decide
theorem test_z_nonzero_refused : zFieldOk 0x11312100#32 = false := by decide
theorem test_imm8_in_format_dst_refused : imm8FieldOk .dst 0x11312001#32 = false := by decide
theorem test_ill_formed_words_refused :
    (([0x05000000#32, 0x04100000#32, 0x01010000#32, 0x1600F000#32, 0x11312100#32, 0x11312001#32, 0x2110_0061#32,
      0x24000001#32, 0#32].map fun w => (wordWellFormed w, decode w)).all fun r => r.1 == false && r.2 == none) = true := by
  decide
theorem test_narrow_access_refused : accessWidthOk 4 = false := by decide
theorem test_misaligned_access_refused : accessAlignedOk 0x104 = false := by decide
theorem test_access_outside_window_refused : accessInWindow 0x1000 = false := by decide
theorem test_div_scratch_refused : (Pseudo.div 8 1 2 1).wellFormed = false := by decide
theorem test_powi_exponent_refused : (Pseudo.powi 4 1 (2 ^ 64)).wellFormed = false := by decide

/-! ### Decoding: a word of every command, from spec/30_encoding.md section 6 and spec/95_test_vectors.md section 2.8 -/

theorem test_decode_zero : decode 0x01500000#32 = some (.zero 5) := by decide
theorem test_decode_one : decode 0x02000000#32 = some (.one 0) := by decide
theorem test_decode_mov : decode 0x03290000#32 = some (.mov 2 9) := by decide
theorem test_decode_eq : decode 0x04034000#32 = some (.eq 3 4) := by decide
theorem test_decode_add : decode 0x10123000#32 = some (.add 1 2 3) := by decide
theorem test_decode_mul : decode 0x11312000#32 = some (.mul 3 1 2) := by decide
theorem test_decode_sqr : decode 0x12FF0000#32 = some (.sqr 15 15) := by decide
theorem test_decode_powx : decode 0x13410000#32 = some (.powx 4 1) := by decide
theorem test_decode_powf : decode 0x14412000#32 = some (.powf 4 1 2) := by decide
theorem test_decode_inv : decode 0x15610000#32 = some (.inv 6 1) := by decide
theorem test_decode_trace : decode 0x16070000#32 = some (.trace 7) := by decide
theorem test_decode_hexb : decode 0x20000000#32 = some .hexb := by decide
theorem test_decode_hexput : decode 0x210000FF#32 = some (.hexput 0xFF) := by decide
theorem test_decode_hexe : decode 0x22F00000#32 = some (.hexe 15) := by decide
theorem test_decode_tohex : decode 0x23080000#32 = some (.tohex 8) := by decide
theorem test_decode_hexget : decode 0x24000000#32 = some .hexget := by decide
theorem test_encode_program_p6 :
    encode (.powf 10 0 9) = 0x14A09000#32 ∧ encode (.eq 10 11) = 0x040AB000#32 ∧ encode (.hexput 0x67) = 0x21000067#32 := by
  decide

/-! ### Commands, one step each -/

-- rule R56: example
theorem test_zero : shown (exec (.zero 5) (loaded 5 7)) (fun t => (t.readF 5, t.err)) = some (0, 0) := by decide +kernel
-- rule R57: F[rd][0] = 1, the rest 0
theorem test_one : shown (exec (.one 0) (loaded 0 6)) (fun t => t.readF 0) = some 1 := by decide +kernel
-- rule R58: example
theorem test_mov : shown (exec (.mov 2 9) (loaded 9 5)) (fun t => (t.readF 2, t.readF 9)) = some (5, 5) := by decide +kernel
-- rule R59: example, and operands that differ in coefficient 358 only
theorem test_eq_equal : shown (exec (.eq 3 4) (loaded2 3 4 1 1)) (fun t => t.sreg) = some 1 := by decide +kernel
theorem test_eq_differ : shown (exec (.eq 3 4) (loaded2 3 4 1 (1 <<< 358 ^^^ 1))) (fun t => t.sreg) = some 0 := by
  decide +kernel
-- rule R60: example; section 2.1: ADD f2, f2, f2
theorem test_add : shown (exec (.add 1 2 3) (loaded2 2 3 3 5)) (fun t => t.readF 1) = some 6 := by decide +kernel
theorem test_add_alias : shown (exec (.add 2 2 2) (loaded 2 operandA)) (fun t => t.readF 2) = some 0 := by decide +kernel
-- section 2.2: A · B, and x^358 · x^358, whose reduction acts on a bit it set itself
theorem test_mul : shown (exec (.mul 1 1 2) (loaded2 1 2 operandA operandB)) (fun t => t.readF 1) =
    some 0x2fab401b25816e9da327cc97a90de2112fab401b25816e9da327cc97a90de2112fab401b25816e9da0a72dfcb6 := by decide +kernel
theorem test_mul_top : shown (exec (.mul 3 1 1) (loaded 1 (1 <<< 358))) (fun t => (t.readF 3).toNat) =
    some (2 ^ 357 + 2 ^ 34 + 2 ^ 16 + 2 ^ 6 + 1) := by decide +kernel
-- rule R68: example; section 2.3: sqr(A)
theorem test_sqr : shown (exec (.sqr 1 1) (loaded 1 (1 <<< 180))) (fun t => t.readF 1) = some 0x8002a := by decide +kernel
theorem test_sqr_a : shown (exec (.sqr 2 0) (loaded 0 operandA)) (fun t => t.readF 2) =
    some 0x567d0803260d32b99eb5c0cbeec5fa71567d0803260d32b99eb5c0cbeec5fa71567d0803260d32b99ef4c33c0e := by decide +kernel
-- rule R72: X = 0 gives 1 even for a = 0; section 2.4: A^5
theorem test_powx_zero : shown (exec (.powx 4 1) State.reset) (fun t => t.readF 4) = some 1 := by decide +kernel
theorem test_powx : shown (exec (.powx 4 1) { loaded 1 operandA with x := 5 }) (fun t => t.readF 4) =
    some 0x1e2c66958a619ca4bf6cfbda51cd215f602a5dfc38abe389c16ac0b3e3075e721e2c669c90fff96f0b57f4ee94 := by decide +kernel
-- rule R73: example, x^359 mod f
theorem test_powf : shown (exec (.powf 4 1 2) (loaded2 1 2 2 0x167)) (fun t => t.readF 4) = some 0x40015 := by decide +kernel
-- rule R75: example, the inverse of x; rule R98: INV of zero keeps the destination
theorem test_inv : shown (exec (.inv 6 1) (loaded 1 2)) (fun t => ((t.readF 6).toNat, t.err)) =
    some (2 ^ 358 + 2 ^ 17 + 2 ^ 3 + 2, 0) := by decide +kernel
theorem test_inv_zero : shown (exec (.inv 1 0) (loaded 1 1)) (fun t => (t.readF 1, t.err)) = some (1, 2) := by decide +kernel
-- rule R81: example, Tr(1) = 1
theorem test_trace : shown (exec (.trace 7) (loaded 7 1)) (fun t => t.sreg) = some 1 := by decide +kernel
-- rule R89: a partly parsed string is discarded
theorem test_hexb : shown (exec .hexb { State.reset with hin := 5, hany := true, hbad := true })
    (fun t => (t.hin, t.hany, t.hbad)) = some (0, false, false) := by decide +kernel
-- rule R90: examples; section 2.7: 8 followed by 89 zeros is x^359 reduced, seen here at the last digit
theorem test_hexput_invalid : shown (exec (.hexput 0x67) State.reset) (fun t => (t.hin, t.hany, t.hbad, t.err)) =
    some (0, false, true, 3) := by decide +kernel
theorem test_hexput_reduces : shown (exec (.hexput 0x61) { State.reset with hin := 1 <<< 355 })
    (fun t => (t.hin, t.hany, t.err)) = some (0x4001F, true, 0) := by decide +kernel
-- rule R92: a string "0" gives 0, the empty string is rejected and F[rd] kept
theorem test_hexe : shown (exec (.hexe 8) { loaded 8 3 with hany := true }) (fun t => (t.readF 8, t.hany, t.err)) =
    some (0, false, 0) := by decide +kernel
theorem test_hexe_empty : shown (exec (.hexe 8) (loaded 8 3)) (fun t => (t.readF 8, t.err)) = some (3, 3) := by
  decide +kernel
-- section 2.7: TOHEX of 0xabcdef and of x^358
theorem test_tohex : shown (exec (.tohex 8) (loaded 8 0xabcdef)) (fun t => (t.sreg, t.holen, t.hoptr)) =
    some (6, 6, 0) := by decide +kernel
theorem test_tohex_long : shown (exec (.tohex 8) (loaded 8 (1 <<< 358))) (fun t => t.sreg) = some 90 := by decide +kernel
-- section 2.7: the first character of x^358's string is '4'; past the end HEXGET gives 0
theorem test_hexget : shown (exec .hexget { State.reset with hoval := 1 <<< 358, holen := 90 })
    (fun t => (t.sreg, t.hoptr)) = some (0x34, 1) := by decide +kernel
theorem test_hexget_end : shown (exec .hexget { State.reset with hoval := 1, holen := 1, hoptr := 1, sreg := 5 })
    (fun t => (t.sreg, t.hoptr)) = some (0, 1) := by decide +kernel
-- rule R85: both letter cases
theorem test_hex_letters : hexChar false 10 = 0x61 ∧ hexChar true 15 = 0x46 ∧ hexChar true 9 = 0x39 := by decide

/-! ### The engine and the window -/

-- section 2.8: ILLEGAL words report code 1; rule R52: PEND is emptied
theorem test_illegal_word : shown (step (latched 0x11312100#32)) (fun t => (t.err, t.pend)) = some (1, none) := by
  decide +kernel
-- the placed word runs in the next step: ONE f0, and PEND is empty again
theorem test_placed_word : shown (step (State.reset.withFetchWord 32 0x02000000)) (fun t => (t.readF 0, t.busy)) =
    some (1, false) := by decide +kernel
-- section 2.8: bits 63:32 of a CMD write are ignored
theorem test_cmd_write : (State.reset.hostWrite (regAt 0x000) 0xDEADBEEF11312000).pend = some 0x11312000 := by decide +kernel
-- section 2.9: F[0] word 5 is masked, and F[3] word 5 is at 0x1E8
theorem test_word5_masked :
    (State.reset.hostWrite (regAt 0x128) 0xFFFFFFFFFFFFFFFF).readReg (regAt 0x128) = 0x0000007FFFFFFFFF := by decide +kernel
theorem test_word5_place :
    (State.reset.hostWrite (regAt 0x1E8) 0xFFFFFFFFFFFFFFFF).readF 3 = BitVec.ofNat 359 (2 ^ 359 - 2 ^ 320) := by
  decide +kernel
-- section 2.9: STATUS reads 0x21 with ONE latched after an InverseOfZero, 0x23 after a dropped write, 0x02 with OVR alone
theorem test_status_busy : { latched 0x02000000#32 with err := 2 }.statusWord = 0x21 := by decide +kernel
theorem test_status_overrun :
    ({ latched 0x02000000#32 with err := 2 }.hostWrite (regAt 0x010) 7).statusWord = 0x23 ∧
    ({ latched 0x02000000#32 with err := 2 }.hostWrite (regAt 0x010) 7).x = 0 := by decide +kernel
theorem test_overrun_clear :
    ({ State.reset with ovr := true }.hostWrite (regAt 0x008) 0xFFFFFFFFFFFFFFFD).statusWord = 0x02 ∧
    ({ State.reset with ovr := true }.hostWrite (regAt 0x008) 2).statusWord = 0 := by decide +kernel
-- section 2.9: words 6 and 7 of a slot and the other reserved offsets
theorem test_reserved_offsets :
    ([0x130, 0x138, 0x020, 0x0F8, 0x500, 0xFF8, 0x4F0].all fun o => regAt o == .reserved) = true := by decide
-- rule R31: byte 1 of F[0] word 0 is bits 15:8
theorem test_byte_lanes : (loaded 0 0x1234).byteAt 0x101 = 0x12 ∧ (loaded 0 0x1234).byteAt 0x100 = 0x34 := by decide +kernel
-- rules R32 and R108: refused accesses
theorem test_refused_accesses :
    State.reset.memRead (.window 0x010) 4 = .refused .accessWidth ∧
    State.reset.memRead (.window 0x014) 8 = .refused .accessMisaligned ∧
    State.reset.memRead (.window 0x1000) 8 = .refused .accessOutsideWindow ∧
    held.memRead (.window 0x008) 8 = .refused .accessDuringReset := ⟨rfl, rfl, rfl, rfl⟩
-- rule R29: an absolute address is CORE_BASE and an offset, whatever CORE_BASE is
theorem test_absolute_address : (HostAddr.absolute (Config.coreBase + 0x010)).offset? = some 0x010 := by
  simp [HostAddr.offset?, accessInWindow]
-- rule R108: reset abandons a latched command and clears the registers
theorem test_reset_input :
    shown (step { (latched 0x02000000#32).writeF 4 9 with inputs := [.resetAssert] })
      (fun t => (t.pend, t.readF 4, t.inReset)) = some (none, 0, true) := by decide +kernel

-- rule R114: an engine's turn or a reset edge left over keeps no run open; a POLL left over and a full PEND do
theorem test_run_end :
    { State.reset with inputs := [.engineTurn, .resetAssert] }.ended ∧ held.ended ∧
    ¬ { State.reset with inputs := [.engineTurn, .poll] }.ended ∧ ¬ (latched 0x02000000#32).ended :=
  ⟨⟨by decide, rfl⟩, ⟨by decide, rfl⟩, fun h => absurd h.1 (by decide), fun h => by cases h.2⟩

/-! ### The assembler: lines of spec/95_test_vectors.md section 3 and rule R54's examples -/

theorem test_assemble_mul :
    assembleLine 0 "MUL f4, f3, f2      ; = 0x1143_2000".toList = some (writeLine 0 0x11432000 ++ [.poll]) := by decide +kernel
theorem test_assemble_hexput :
    assembleLine 0 "hexput 'a'".toList = some (writeLine 0 0x21000061 ++ [.poll]) ∧
    assembleLine 0 "HEXPUT 0x61".toList = assembleLine 0 "HEXPUT 97".toList := by decide +kernel
theorem test_assemble_write :
    assembleLine 0 "W 0x128, 0x000000123456789A   ; F[0] word 5".toList = some (writeLine 0x128 0x123456789A) := by
  decide +kernel
theorem test_assemble_div :
    assembleLine 0 "DIV f8, f1, f2, f3".toList = some (commandLine (.inv 3 2) ++ commandLine (.mul 8 1 3)) ∧
    assembleLine 0 "DIV f8, f1, f2, f1".toList = none := by decide +kernel

/-! ### Witnesses: states and operands that meet the hypotheses of each statement that has any -/

/-- A busy state that meets the invariant, with a hex output loaded and a code left by an earlier command. -/
def working : State :=
  { latched 0x24000000#32 with err := 2, hoval := 1 <<< 358, holen := 90, hoptr := 89, sreg := 0x66, hin := 3, hany := true }

theorem working_inv : working.Inv where
  err := by decide
  output := .inr (by decide +kernel)
  pointer := by decide
  input := by decide
  scalar := by decide
  inReset := by decide

theorem witness_ResetInputClearsTheBlock :
    { latched 0x02000000#32 with inputs := [.resetAssert] }.inputs = .resetAssert :: [] ∧
    { held with inputs := [.resetRelease] }.inputs = .resetRelease :: [] ∧
    { held with inputs := [.resetRelease] }.inReset = true ∧ held.inReset = true := ⟨rfl, rfl, rfl, rfl⟩

theorem witness_StepKeepsTheInvariant : working.Inv ∧ ∃ t, step working = .next t :=
  ⟨working_inv, _, rfl⟩

theorem witness_CommandsDoNotReadStatusOrS :
    (∃ t, exec (.mul 3 1 2) working = .next t) ∧ mayWriteS (.mul 3 1 2) = false ∧
    (∃ t, exec (.eq 1 2) working = .next t) ∧ mayWriteS (.eq 1 2) = true := ⟨⟨_, rfl⟩, rfl, ⟨_, rfl⟩, rfl⟩

theorem witness_CommandsWriteOnlyTheirOwnState :
    (∃ t, exec (.mul 15 1 2) working = .next t) ∧ destOf (.mul 15 1 2) ≠ some 14 ∧ mayWriteS (.mul 15 1 2) = false ∧
    touchesHexInput (.mul 15 1 2) = false ∧ touchesHexOutput (.mul 15 1 2) = false ∧
    (∃ t, exec (.hexput 0x61) working = .next t) ∧ usesDatapath (.hexput 0x61) = false := by
  exact ⟨⟨_, rfl⟩, by decide, rfl, rfl, rfl, exists_next (g := fun _ => ()) (by decide +kernel), rfl⟩

theorem witness_CommandsKeepOtherWindowBytes :
    (∃ t, exec (.add 15 1 2) working = .next t) ∧ (∃ t, exec (.trace 1) working = .next t) ∧
    destOf (.add 15 1 2) = some 15 ∧ destOf (.trace 1) = none ∧ mayWriteS (.trace 1) = true ∧
    ([0x000, 0x007, 0x010, 0x017, 0x020, 0x4BF, 0x4F0, 0x4FF].all fun a =>
      (decide (a < 0x100 + 0x40 * 15) || decide (0x130 + 0x40 * 15 ≤ a)) && (decide (a < 0x008) || decide (0x010 ≤ a)) &&
        (decide (a < 0x018) || decide (0x020 ≤ a))) = true := by
  exact ⟨⟨_, rfl⟩, ⟨_, rfl⟩, rfl, rfl, rfl, by decide⟩

theorem witness_OverrunFlagIsSticky :
    working.busy = true ∧ (2 : Word64).getLsbD 1 = true ∧ (0xFFFFFFFFFFFFFFFD : Word64).getLsbD 1 = false ∧
    (∃ t, step { working with ovr := true, inputs := [.write (.window 0x008) 8 2] } = .next t ∧ t.ovr = false) ∧
    (∃ t, step { working with ovr := true, inputs := [.resetAssert] } = .next t ∧ t.ovr = false) ∧
    (∃ t, step { held with ovr := true, inputs := [.resetRelease] } = .next t ∧ t.ovr = false) ∧
    (∃ t, exec (.one 3) working = .next t) :=
  ⟨rfl, by decide, by decide, ⟨_, rfl, rfl⟩, ⟨_, rfl, rfl⟩, ⟨_, rfl, rfl⟩, ⟨_, rfl⟩⟩

theorem witness_WindowMap :
    ([0x020, 0x0F8, 0x130, 0x138, 0x4F0, 0x4F8, 0x500, 0xFF8].all fun o => o % 8 == 0 && decide (o < 0x1000)) = true ∧
    0x4F8 = 0x100 + 0x40 * (15 : Reg).val + 0x38 ∧ 0x130 = 0x100 + 0x40 * (0 : Reg).val + 0x30 := by decide

theorem witness_WordAndByteOrder : 358 < 359 ∧ 0x4E8 % 8 = 0 ∧ 7 < 8 := by decide

theorem witness_WindowStandsAtCoreBase :
    0xFFF < 0x1000 ∧ 0x1000 ≤ 0x1000 ∧ (HostAddr.absolute (Config.coreBase + 0xFFF)).offset? = some 0xFFF := by
  refine ⟨by decide, by decide, ?_⟩
  simp [HostAddr.offset?, accessInWindow]

theorem witness_OnlyAlignedWordAccessesAreDefined :
    working.inReset = false ∧ accessDefined (.window 0xFF8) 8 ∧ ¬ accessDefined (.window 0xFF9) 8 ∧
    ¬ accessDefined (.window 0x1000) 8 ∧ ¬ accessDefined (.window 0x000) 4 := by
  refine ⟨rfl, ⟨rfl, 0xFF8, rfl, rfl⟩, ?_, ?_, fun h => absurd h.1 (by decide)⟩
  · rintro ⟨-, o, ho, ha⟩
    cases ho
    exact absurd ha (by decide)
  · rintro ⟨-, o, ho, -⟩
    cases ho

/-- PEND empty, and PEND full: the two hypotheses of the access statements (ReadsChangeNoRegister,
CommandWriteLatchesOrOverruns, ExponentScalarAndReservedAccess, FieldWordAccess), with a reserved offset, the last word
of the last register, a result register, and an illegal word under bits that a CMD write ignores. -/
theorem witness_window_accesses :
    State.reset.pend = none ∧ State.reset.busy = false ∧ working.pend ≠ none ∧ regAt 0x138 = .reserved ∧
    regAt (0x100 + 0x40 * (15 : Reg).val + 8 * (5 : Fin 6).val) = .fword 15 5 ∧
    working.busy = true ∧ (regAt 0x018).isResult = true ∧ State.reset.inReset = false ∧
    decode ((0xFFFFFFFF01010000 : Word64).extractLsb' 0 32) = none := by decide

theorem witness_HexbClearsTheInput : ∃ t, exec (.hexe 1) working = .next t :=
  exists_next (g := fun _ => ()) (by decide +kernel)

theorem witness_TohexLoadsTheOutput : State.reset.readF 1 = 0 := by decide +kernel

theorem witness_LatchedCommandIsNeverChanged :
    State.reset.pend = none ∧ working.pend ≠ none ∧ working.pend = some 0x24000000#32 ∧ (∃ t, step working = .next t) ∧
    ∃ t, step { working with inputs := [.write (.window 0x000) 8 0] } = .next t :=
  ⟨rfl, by decide, rfl, ⟨_, rfl⟩, ⟨_, rfl⟩⟩

theorem witness_IllegalWordsAreReported :
    decode 0xFF000000#32 = none ∧ decode 0x01010000#32 = none ∧ formatOfOpcode 0x25 = none ∧ 0x25 < 256 := by decide

theorem witness_DecodingFollowsTheTable :
    (∃ row ∈ rows, 0x24000000#32 &&& row.format.mask = row.bits) ∧
    ∀ row ∈ rows, 0x24000001#32 &&& row.format.mask ≠ row.bits := by decide

theorem witness_EncodeOfDecodeIsTheWord : decode 0x04FFF000#32 = none ∧ decode 0x040FF000#32 = some (.eq 15 15) := by decide

theorem witness_StepExecutesTheLatchedCommand :
    working.inReset = false ∧ working.pend = some 0x24000000#32 ∧ decode 0x24000000#32 = some .hexget ∧
    (∃ t, exec .hexget { { working with inputs := [.engineTurn] } with inputs := [] } = .next t) ∧
    (∃ t, exec .hexget working = .next t) ∧ (∃ t, exec .hexget { working with inputs := [.poll] } = .next t) ∧
    decodeTableWord 32 0x24000000 = some .hexget := by
  exact ⟨rfl, rfl, by decide, ⟨_, rfl⟩, ⟨_, rfl⟩, ⟨_, rfl⟩, by decide⟩

theorem witness_MovCopiesARegister : (2 : Reg) ≠ 9 ∧ ∃ t, exec (.mov 2 9) (loaded 9 5) = .next t := ⟨by decide, _, rfl⟩

theorem witness_EqComparesAllCoefficients :
    (∀ i, i < 359 → (State.reset.readF 3).getLsbD i = (State.reset.readF 4).getLsbD i) ∧
    ∃ i, i < 359 ∧ ((loaded 3 (1 <<< 358)).readF 3).getLsbD i ≠ ((loaded 3 (1 <<< 358)).readF 4).getLsbD i := by
  refine ⟨fun i _ => by simp, 358, by decide, by decide +kernel⟩

theorem witness_AddIsCoefficientwiseXor : State.reset.readF 2 = 0 ∧ (loaded 2 5).readF 3 = 0 ∧ (2 : Reg) = 2 := by decide +kernel

theorem witness_ReductionSweepIsTheRemainder :
    2 ^ 716 < 2 ^ (359 + (357 + 1)) ∧ 2 ^ 716 < 2 ^ (359 + 358) ∧ 2 ^ 716 < 2 ^ 717 ∧ 2 ^ 358 < 2 ^ 359 ∧
    IsRemainder 1 1 := by
  refine ⟨by decide +kernel, by decide +kernel, by decide +kernel, by decide +kernel, 0, by decide +kernel⟩

theorem witness_MulIsTheReducedProduct : (0 : Elem) = 0 ∧ (1 : Elem) = 1 := ⟨rfl, rfl⟩

theorem witness_SqrIsTheReducedSpread :
    deg (1#359 <<< 179).toNat ≤ 179 ∧ 180 ≤ deg (1#359 <<< 180).toNat ∧ 358 ≤ 358 := by decide +kernel

theorem witness_SqrAgreesWithMul :
    (∃ t, exec (.sqr 2 0) (loaded 0 operandA) = .next t) ∧ ∃ u, exec (.mul 2 0 0) (loaded 0 operandA) = .next u :=
  ⟨⟨_, rfl⟩, ⟨_, rfl⟩⟩

theorem witness_SquareAndMultiplyComputesThePower : 2 ^ 64 - 1 < 2 ^ 64 ∧ 0 < 2 ^ 0 := by decide +kernel

theorem witness_PowerLaws :
    operandA ≠ 0 ∧ { loaded2 1 2 operandA 5 with x := 5 }.x.toNat = ({ loaded2 1 2 operandA 5 with x := 5 }.readF 2).toNat ∧
    (∃ t, exec (.powx 4 1) { loaded2 1 2 operandA 5 with x := 5 } = .next t) ∧
    ∃ u, exec (.powf 4 1 2) { loaded2 1 2 operandA 5 with x := 5 } = .next u := by
  exact ⟨by decide +kernel, by decide +kernel, ⟨_, rfl⟩, ⟨_, rfl⟩⟩

theorem witness_InvOfNonzeroCompletes : (loaded 1 2).readF 1 ≠ 0 := by decide +kernel

theorem witness_InvOfZeroReportsAndKeepsAll :
    State.reset.readF 0 = 0 ∧ shown (exec (.inv 1 0) State.reset) (fun t => t.err) = some 2 ∧
    ∃ rd rs1 rs2, Instr.trace 4 = .mul rd rs1 rs2 ∨ Instr.trace 4 = .sqr rd rs1 ∨ Instr.trace 4 = .powx rd rs1 ∨
      Instr.trace 4 = .powf rd rs1 rs2 ∨ Instr.trace 4 = .trace rs1 := by
  refine ⟨by decide +kernel, by decide +kernel, 0, 4, 0, ?_⟩
  simp

theorem witness_LongDivision : (1 : Poly) ≠ 0 ∧ fPoly ≠ 0 := by decide +kernel

theorem witness_InverseIsUnique :
    (2 : Elem) ≠ 0 ∧ reduce (clmul 1 1) = 1 ∧ (loaded 1 2).readF 1 ≠ 0 ∧
    ∃ t, exec (.inv 6 1) (loaded 1 2) = .next t := by
  exact ⟨by decide +kernel, by decide +kernel, by decide +kernel, exists_next (g := fun _ => ()) (by decide +kernel)⟩

theorem witness_FermatInverseAgrees :
    ((loaded 2 (BitVec.ofNat 359 (2 ^ 359 - 2))).readF 2).toNat = 2 ^ 359 - 2 ∧
    ∃ t, exec (.powf 3 1 2) (loaded 2 (BitVec.ofNat 359 (2 ^ 359 - 2))) = .next t := by
  exact ⟨by decide +kernel, ⟨_, rfl⟩⟩

theorem witness_TraceIsTheParityOfFourCoefficients : 357 < 359 ∧ 358 < 359 := by decide

theorem witness_ValidHexCharacters : (9#4).toNat ≤ 9 ∧ 10 ≤ (10#4).toNat := by decide

theorem witness_HexLengthAndNibbles : 356 ≤ deg (1#359 <<< 356).toNat ∧ (1#359 <<< 356) ≠ 0 := by decide +kernel

theorem witness_HexputAppendsOneCharacter :
    digitValue 0x30 = some 0 ∧ digitValue 0x66 = some 15 ∧ digitValue 0x46 = some 15 ∧ digitValue 0x2F = none ∧
    digitValue 0x3A = none ∧ digitValue 0x40 = none ∧ digitValue 0x47 = none ∧ digitValue 0x60 = none ∧
    digitValue 0x67 = none := by decide

theorem witness_HexInputHoldsFromHex : HexWellFormed [0x38, 0x30] := ⟨by decide, by decide⟩

theorem witness_HexStringIsParsedOrRejected :
    HexWellFormed [0x38] ∧ ¬ HexWellFormed [] ∧ ¬ HexWellFormed [0x67, 0x31] :=
  ⟨⟨by decide, by decide⟩, fun h => h.1 rfl, fun h => absurd (h.2 0x67 (by decide)) (by decide)⟩

theorem witness_HexeWritesOrRejects :
    (State.reset.hbad = true ∨ State.reset.hany = false) ∧ working.hbad = false ∧ working.hany = true :=
  ⟨.inr rfl, rfl, rfl⟩

theorem witness_HexgetEmitsTheString :
    working.hoptr < working.holen ∧ ¬ State.reset.hoptr < State.reset.holen ∧
    ∃ t, exec (.tohex 1) working = .next t := ⟨by decide, by decide, ⟨_, rfl⟩⟩

theorem witness_EveryCommandReportsItsCode :
    (∃ t, exec (.inv 1 0) State.reset = .next t) ∧ (∃ t, executeWord 0#32 State.reset = .next t) ∧
    shown (exec (.hexput 0x67) State.reset) (fun t => t.err) = some 3 ∧
    shown (exec (.hexe 1) State.reset) (fun t => t.err) = some 3 := by
  exact ⟨exists_next (g := fun _ => ()) (by decide +kernel), ⟨_, rfl⟩, by decide +kernel, by decide +kernel⟩

theorem witness_FailingCommandsWriteNothingElse :
    shown (exec (.inv 1 0) State.reset) (fun t => t.err) ≠ some 0 ∧
    shown (exec (.hexput 0x67) State.reset) (fun t => t.err) ≠ some 0 ∧
    shown (exec (.hexe 1) State.reset) (fun t => t.err) ≠ some 0 ∧
    ∃ t, executeWord 0x02000000#32 working = .next t := by
  exact ⟨by decide +kernel, by decide +kernel, by decide +kernel, ⟨_, rfl⟩⟩

theorem witness_StepStopsOnlyAtRefusedAccesses :
    (∃ why, step { working with inputs := [.read (.window 0x001) 8] } = .refused why) ∧
    ¬ (Input.read (.window 0x001) 8).admitted working ∧
    ¬ Input.poll.admitted held := by
  refine ⟨⟨_, rfl⟩, ?_, fun h => Bool.noConfusion h⟩
  rintro ⟨-, -, o, ho, ha⟩
  cases ho
  exact absurd ha (by decide)

/-- With a free hand, and with a write that is dropped and a poll ahead, both admitted. -/
theorem witness_LatchedCommandCompletes :
    working.pend = some 0x24000000#32 ∧ working.inReset = false ∧
    ∀ i ∈ [Input.write (.window 0x010) 8 7, .poll], i.admitted working ∧ i ≠ .resetAssert := by
  refine ⟨rfl, rfl, fun i hi => ?_⟩
  simp only [List.mem_cons, List.not_mem_nil, or_false] at hi
  rcases hi with rfl | rfl
  · exact ⟨⟨rfl, rfl, 0x010, rfl, rfl⟩, nofun⟩
  · exact ⟨rfl, nofun⟩

theorem witness_OverrunRaceAdmitsBothSchedules :
    State.reset.pend = none ∧ State.reset.inReset = false ∧
    ∃ t, executeWord ((0x02000000 : Word64).extractLsb' 0 32)
      { State.reset with pend := some ((0x02000000 : Word64).extractLsb' 0 32), inputs := [] } = .next t :=
  ⟨rfl, rfl, ⟨_, rfl⟩⟩

end Sys2Proof.Tests
end

namespace Sys2Proof.Machine

/-! ## The commands whose meaning branches

One equation per branch; the other twelve commands answer one state each. -/

/-- INV of zero only reports (rule R98). -/
theorem exec_inv_of_zero {s : State} {rs1 : Reg} (rd : Reg) (h : s.readF rs1 = 0) :
    exec (.inv rd rs1) s = .next (s.raise .inverseOfZero) := if_pos h

/-- INV of a nonzero element (rule R75). -/
theorem exec_inv_of_ne_zero {s : State} {rs1 : Reg} (rd : Reg) (h : s.readF rs1 ≠ 0) :
    exec (.inv rd rs1) s = .next (s.spendInv.writeF rd (invEuclid (s.readF rs1))).complete := if_neg h

/-- HEXPUT of a valid character (rule R90). -/
theorem exec_hexput_of_valid (s : State) {c : Byte} {v : BitVec 4} (h : digitValue c = some v) :
    exec (.hexput c) s = .next { s with hin := hornerStep s.hin v, hany := true }.complete := by
  simp [exec, execHexput, h]

/-- HEXPUT of any other byte (rule R90). -/
theorem exec_hexput_of_invalid (s : State) {c : Byte} (h : digitValue c = none) :
    exec (.hexput c) s = .next ({ s with hbad := true }.raise .malformedInput) := by
  simp [exec, execHexput, h]

/-- HEXE after an invalid character, or after no valid one (rule R92). -/
theorem exec_hexe_of_malformed {s : State} (rd : Reg) (h : s.hbad = true ∨ s.hany = false) :
    exec (.hexe rd) s = .next (s.clearHexInput.raise .malformedInput) := if_pos h

/-- HEXE after a well-formed string (rule R92). -/
theorem exec_hexe_of_wellFormed {s : State} (rd : Reg) (h : ¬ (s.hbad = true ∨ s.hany = false)) :
    exec (.hexe rd) s = .next (s.writeF rd s.hin).clearHexInput.complete := if_neg h

/-- HEXGET with characters left (rule R94). -/
theorem exec_hexget_of_lt {s : State} (h : s.hoptr < s.holen) :
    exec .hexget s =
      .next ({ s with hoptr := s.hoptr + 1 }.writeS
        ((hexChar Config.hexOutUpper (nib s.hoval (s.holen.toNat - 1 - s.hoptr.toNat))).setWidth 64)).complete :=
  if_pos h

/-- HEXGET past the end (rule R94). -/
theorem exec_hexget_of_not_lt {s : State} (h : ¬ s.hoptr < s.holen) :
    exec .hexget s = .next (s.writeS 0).complete := if_neg h

/-! ## STATUS, PEND and S under a command -/

/-- A command run with other values in OVR, ERR, PEND and S does the same: each operation it is made of leaves OVR and PEND
alone and overwrites ERR, none looks at these four, and so the branch taken is the same. -/
theorem exec_with_status_and_s {i : Instr} {s t : State} (ovr : Bool) (err : BitVec 4) (pend : Option Word32)
    (sreg : Word64) (h : exec i s = .next t) :
    exec i { s with ovr := ovr, err := err, pend := pend, sreg := sreg } =
      .next { t with ovr := ovr, pend := pend, sreg := if mayWriteS i = true then t.sreg else sreg } := by
  cases i with
  | inv rd rs1 =>
    by_cases hz : s.readF rs1 = 0
    · cases (exec_inv_of_zero rd hz).symm.trans h
      exact exec_inv_of_zero rd hz
    · cases (exec_inv_of_ne_zero rd hz).symm.trans h
      exact exec_inv_of_ne_zero rd hz
  | hexput c =>
    cases hv : digitValue c with
    | none =>
      cases (exec_hexput_of_invalid s hv).symm.trans h
      exact exec_hexput_of_invalid _ hv
    | some v =>
      cases (exec_hexput_of_valid s hv).symm.trans h
      exact exec_hexput_of_valid _ hv
  | hexe rd =>
    by_cases hm : s.hbad = true ∨ s.hany = false
    · cases (exec_hexe_of_malformed rd hm).symm.trans h
      exact exec_hexe_of_malformed rd hm
    · cases (exec_hexe_of_wellFormed rd hm).symm.trans h
      exact exec_hexe_of_wellFormed rd hm
  | hexget =>
    by_cases hl : s.hoptr < s.holen
    · cases (exec_hexget_of_lt hl).symm.trans h
      exact exec_hexget_of_lt hl
    · cases (exec_hexget_of_not_lt hl).symm.trans h
      exact exec_hexget_of_not_lt hl
  | zero | one | mov | eq | add | mul | sqr | powx | powf | trace | hexb | tohex =>
    cases h
    rfl

/-- The frame of OVR, PEND and S (rules R16, R19, R22): a run with the values `s` itself holds is the run from `s`, so what
`exec_with_status_and_s` says of those runs' ends is said of `t`. -/
theorem exec_keeps_status_and_s {i : Instr} {s t : State} (h : exec i s = .next t) :
    t.ovr = s.ovr ∧ t.pend = s.pend ∧ (mayWriteS i = false → t.sreg = s.sreg) := by
  have same : exec i s =
      .next { t with ovr := s.ovr, pend := s.pend, sreg := if mayWriteS i = true then t.sreg else s.sreg } :=
    exec_with_status_and_s s.ovr s.err s.pend s.sreg h
  have ht := Host.Outcome.next.inj (h.symm.trans same)
  refine ⟨by rw [ht], by rw [ht], fun hS => ?_⟩
  rw [ht]
  simp [hS]

/-- No command writes OVR (rule R19). -/
theorem exec_keeps_ovr {i : Instr} {s t : State} (h : exec i s = .next t) : t.ovr = s.ovr :=
  (exec_keeps_status_and_s h).1

/-- No command reads OVR (rule R19). -/
theorem exec_with_ovr {i : Instr} {s t : State} (ovr : Bool) (h : exec i s = .next t) :
    exec i { s with ovr := ovr } = .next { t with ovr := ovr } := by
  obtain ⟨-, hpend, hsreg⟩ := exec_keeps_status_and_s h
  have hS : (if mayWriteS i = true then t.sreg else s.sreg) = t.sreg := by
    cases hw : mayWriteS i
    · exact (hsreg hw).symm
    · rfl
  have run := exec_with_status_and_s ovr s.err s.pend s.sreg h
  simpa only [hS, hpend] using run

/-! ## What sets and what clears OVR -/

/-- The engine's turn keeps OVR, whether the latched word is a command or not (rule R19). -/
theorem engineStep_keeps_ovr {s t : State} (h : engineStep s = .next t) : t.ovr = s.ovr := by
  rcases engineStep_cases s with ⟨idle, -⟩ | ⟨w, -, -, runs⟩
  · cases idle.symm.trans h
    rfl
  · rcases executeWord_next (runs ▸ h) with ⟨-, rfl⟩ | ⟨i, u, -, hu, rfl⟩
    · rfl
    · exact u.retire_ovr.trans (exec_keeps_ovr hu)

/-- A host read leaves OVR alone (rule R33). -/
@[simp] theorem State.hostRead_ovr (s : State) (reg : WindowReg) : (s.hostRead reg).ovr = s.ovr := by
  rcases s.hostRead_cases reg with ⟨e, -⟩ | ⟨e, -⟩ <;> rw [e]

/-- A host read that answers leaves OVR alone (rule R33). -/
theorem State.memRead_keeps_ovr {s t : State} {addr : HostAddr} {size : Nat} (h : s.memRead addr size = .next t) :
    t.ovr = s.ovr := by
  obtain ⟨-, -, o, -, -, rfl⟩ := State.access_next h
  exact s.hostRead_ovr (regAt o)

/-- With BUSY = 1 a write to CMD, X or a field-register word is dropped, and OVR set (rules R19, R40). -/
theorem State.hostWrite_of_busy {s : State} {reg : WindowReg} (v : Word64) (hb : s.busy = true)
    (hreg : reg = .cmd ∨ reg = .x ∨ ∃ r j, reg = .fword r j) : s.hostWrite reg v = s.setOvr := by
  rcases hreg with rfl | rfl | ⟨r, j, rfl⟩ <;> exact State.unlessBusy_of_busy hb _

/-- A host write of `v` to STATUS clears OVR exactly if bit 1 of `v` is 1 (rule R35). -/
theorem State.hostWrite_status (s : State) (v : Word64) :
    s.hostWrite .status v = { s with ovr := s.ovr && !v.getLsbD 1 } := s.writeStatus_cases v

/-- A host write that clears OVR is to STATUS, with bit 1 = 1 (rule R19). -/
theorem State.hostWrite_clears_ovr {s : State} {reg : WindowReg} {v : Word64} (hs : s.ovr = true)
    (ht : (s.hostWrite reg v).ovr = false) : reg = .status ∧ v.getLsbD 1 = true := by
  rcases s.hostWrite_cases reg v with e | ⟨e, -⟩ | ⟨hreg, e⟩ | ⟨-, ⟨-, e⟩ | ⟨-, e⟩ | ⟨r, j, -, e⟩⟩ <;> rw [e] at ht
  case inr.inr.inl => exact ⟨hreg, by simpa [hs] using ht⟩
  all_goals simp [hs] at ht

/-- STATUS stands at offset 0x008 and nowhere else (rule R30). -/
theorem regAt_eq_status_iff {o : Nat} : regAt o = .status ↔ o = 0x008 := by
  constructor
  · unfold regAt
    split_ifs <;> simp_all
  · rintro rfl
    rfl

/-- A host write that answers and clears OVR is to STATUS's offset, with bit 1 = 1 (rule R19). -/
theorem State.memWrite_clears_ovr {s t : State} {addr : HostAddr} {size : Nat} {v : Word64}
    (h : s.memWrite addr size v = .next t) (hs : s.ovr = true) (ht : t.ovr = false) :
    addr.offset? = some 0x008 ∧ v.getLsbD 1 = true := by
  obtain ⟨-, -, o, ho, -, rfl⟩ := State.access_next h
  obtain ⟨hreg, hv⟩ := State.hostWrite_clears_ovr hs ht
  exact ⟨regAt_eq_status_iff.mp hreg ▸ ho, hv⟩

/-- A step that clears a set OVR is a host write to STATUS with bit 1 = 1, or an edge of the reset input (rule R19): every
other case of `step_next` keeps OVR. -/
theorem step_clears_ovr {s t : State} (h : step s = .next t) (hs : s.ovr = true) (ht : t.ovr = false) :
    (∃ addr size v rest, s.inputs = .write addr size v :: rest ∧ addr.offset? = some 0x008 ∧ v.getLsbD 1 = true) ∨
    (∃ rest, s.inputs = .resetAssert :: rest) ∨ (∃ rest, s.inputs = .resetRelease :: rest) := by
  have changed : t.ovr ≠ s.ovr := by simp [hs, ht]
  rcases step_next h with ⟨-, engine⟩ | ⟨i, rest, hin, hc⟩
  · exact absurd (engineStep_keeps_ovr engine) changed
  · rcases hc with ⟨addr, size, v, rfl, write⟩ | ⟨addr, size, -, read⟩ | ⟨-, -, -, engine⟩ | ⟨-, -, read⟩ | ⟨-, engine⟩ |
      ⟨rfl, -⟩ | ⟨rfl, -⟩ | ⟨rfl, -⟩
    · exact .inl ⟨addr, size, v, rest, hin, State.memWrite_clears_ovr write hs ht⟩
    · exact absurd (State.memRead_keeps_ovr read) changed
    · exact absurd (engineStep_keeps_ovr engine) changed
    · exact absurd (State.memRead_keeps_ovr read) changed
    · exact absurd (engineStep_keeps_ovr engine) changed
    · exact .inr (.inl ⟨rest, hin⟩)
    · exact .inr (.inr ⟨rest, hin⟩)
    · exact .inr (.inr ⟨rest, hin⟩)

/-! ## The obligations on state and reset -/

/-- Settles O5: `exec_with_status_and_s`, for every command. -/
theorem commandsDoNotReadStatusOrS : Obligations.CommandsDoNotReadStatusOrS :=
  fun _ _ _ ovr err pend sreg h => exec_with_status_and_s ovr err pend sreg h

/-- Settles O8: the two host writes by their rules, the step by its cases, the commands by their noninterference. -/
theorem overrunFlagIsSticky : Obligations.OverrunFlagIsSticky := by
  refine ⟨fun _ _ v hb hreg => State.hostWrite_of_busy v hb hreg, fun s v hv => ?_, fun s v hv => ?_,
    fun _ _ => step_clears_ovr, fun _ _ _ ovr h => ⟨exec_keeps_ovr h, exec_with_ovr ovr h⟩⟩
  · simp only [State.hostWrite_status, hv, Bool.not_true, Bool.and_false]
  · simp only [State.hostWrite_status, hv, Bool.not_false, Bool.and_true]

/-- Settles O1: each register of `State.reset` is the value of rule R28's table. -/
theorem resetLeavesEverythingZero : Obligations.ResetLeavesEverythingZero :=
  ⟨State.readF_reset, rfl, rfl, rfl, rfl, rfl, rfl, rfl, rfl, rfl, rfl, rfl, rfl, rfl⟩

end Sys2Proof.Machine

namespace Sys2Proof.Machine

/-! ## The window's map (rules R29 to R31) -/

/-- F[r] word j stands at 0x100 + 0x40·r + 8·j (rules R30, R31). -/
@[simp] theorem regAt_fword (r : Reg) (j : Fin 6) : regAt (0x100 + 0x40 * r.val + 8 * j.val) = .fword r j := by
  have hr := r.isLt
  have hj := j.isLt
  have slot : (0x100 + 0x40 * r.val + 8 * j.val - 0x100) / 0x40 = r.val := by omega
  have word : (0x100 + 0x40 * r.val + 8 * j.val) % 0x40 / 8 = j.val := by omega
  unfold regAt
  rw [if_neg (by omega), if_neg (by omega), if_neg (by omega), if_neg (by omega), if_pos (by omega)]
  simp only [slot, word, hj, dite_true, Fin.eta]
  congr 1
  exact Fin.ext (Nat.mod_eq_of_lt hr)

/-- Above S and outside the words of the field registers every offset is reserved (rule R30). -/
theorem regAt_eq_reserved {o : Nat} (h : 0x020 ≤ o) (hf : o < 0x100 ∨ 0x500 ≤ o ∨ 6 ≤ o % 0x40 / 8) :
    regAt o = .reserved := by
  unfold regAt
  rw [if_neg (by omega), if_neg (by omega), if_neg (by omega), if_neg (by omega)]
  split
  · exact dif_neg (by omega)
  · rfl

/-- An offset names a place exactly in the 4 KiB of the window (rule R29). -/
theorem HostAddr.offset?_window_eq_some_iff {o p : Nat} : (HostAddr.window o).offset? = some p ↔ o < 0x1000 ∧ p = o := by
  simp [HostAddr.offset?, accessInWindow, eq_comm]

/-- An absolute address names a place exactly if it is CORE_BASE and an offset of the window (rule R29). -/
theorem HostAddr.offset?_absolute_eq_some_iff {a o : Nat} :
    (HostAddr.absolute a).offset? = some o ↔ o < 0x1000 ∧ a = Config.coreBase + o := by
  simp only [HostAddr.offset?, accessInWindow, Option.ite_none_right_eq_some, decide_eq_true_eq, Option.some.injEq]
  omega

/-! ## Bits of words, elements and STATUS -/

/-- Bit i of word j of an element is coefficient 64·j + i (rules R10, R38). -/
@[simp] theorem getLsbD_elemWord (a : Elem) (j : Fin 6) (i : Nat) :
    (elemWord a j).getLsbD i = (decide (i < 64) && a.getLsbD (64 * j.val + i)) :=
  BitVec.getLsbD_extractLsb' ..

/-- Writing word j replaces that word's coefficients below 359 and keeps the others (rule R38). -/
theorem getLsbD_setElemWord (a : Elem) (j : Fin 6) (v : Word64) {i : Nat} (hi : i < 359) :
    (setElemWord a j v).getLsbD i = if i / 64 = j.val then v.getLsbD (i % 64) else a.getLsbD i := by
  have bits : (setElemWord a j v).getLsbD i =
      (a.getLsbD i && (decide (i < 64 * j.val) || !decide (i - 64 * j.val < 64)) ||
        !decide (i < 64 * j.val) && v.getLsbD (i - 64 * j.val)) := by
    simp [-BitVec.reduceAllOnes, setElemWord, hi]
  rw [bits]
  by_cases hword : i / 64 = j.val
  · have low : ¬ i < 64 * j.val := by omega
    have inside : i % 64 < 64 := by omega
    have place : i - 64 * j.val = i % 64 := by omega
    simp [hword, low, place, inside]
  · rcases (by omega : i < 64 * j.val ∨ 64 * j.val ≤ i ∧ 64 ≤ i - 64 * j.val) with low | ⟨low, high⟩
    · simp [hword, low]
    · simp [hword, low.not_gt, high]

/-- Byte b of the register at an aligned offset holds its bits 8b+7 down to 8b (rule R31). -/
theorem State.getLsbD_byteAt (s : State) {o b k : Nat} (ho : o % 8 = 0) (hb : b < 8) (hk : k < 8) :
    (s.byteAt (o + b)).getLsbD k = (s.readReg (regAt o)).getLsbD (8 * b + k) := by
  have reg : (o + b) / 8 * 8 = o := by omega
  have lane : (o + b) % 8 = b := by omega
  simp [State.byteAt, reg, lane, hk]

/-- STATUS bit by bit: BUSY, OVR, two zeros, ERR, zeros (rules R17, R35). -/
theorem State.getLsbD_statusWord (s : State) (i : Nat) :
    s.statusWord.getLsbD i =
      if i = 0 then s.busy else if i = 1 then s.ovr else decide (4 ≤ i) && s.err.getLsbD (i - 4) := by
  simp only [State.statusWord, BitVec.getLsbD_setWidth, BitVec.getLsbD_append]
  match i with
  | 0 | 1 | 2 | 3 => simp
  | i + 4 =>
    by_cases hi : i < 4
    · have width : i + 4 < 64 := by omega
      simp [hi, width]
    · simp [s.err.getLsbD_of_ge i (by omega)]

/-- The ERR field of STATUS is ERR (rule R17). -/
theorem State.statusWord_err (s : State) : s.statusWord.extractLsb' 4 4 = s.err := by
  refine BitVec.eq_of_getLsbD_eq fun i hi => ?_
  have field : 4 + i ≠ 0 ∧ 4 + i ≠ 1 := by omega
  simp [State.getLsbD_statusWord, hi, field]

/-! ## Host reads and host writes (rules R33 to R40) -/

/-- A host read adds one value to those the host has read, and changes nothing else but the draw counter (rule R33). -/
theorem State.hostRead_records (s : State) (reg : WindowReg) :
    ∃ u, { s.hostRead reg with draws := s.draws } = { s with reads := u :: s.reads } := by
  rcases s.hostRead_cases reg with ⟨e, -⟩ | ⟨e, -⟩ <;> exact ⟨_, by rw [e]⟩

/-- With PEND empty, or of a register that is no command's result, a read returns the register (rules R34 to R39). -/
theorem State.hostRead_of_specified {s : State} {reg : WindowReg} (h : s.busy = false ∨ reg.isResult = false) :
    s.hostRead reg = { s with reads := s.readReg reg :: s.reads } := by
  rcases s.hostRead_cases reg with ⟨e, -⟩ | ⟨-, hb, hr⟩
  · exact e
  · simp [hb, hr] at h

/-- A host read leaves PEND alone (rule R33). -/
@[simp] theorem State.hostRead_pend (s : State) (reg : WindowReg) : (s.hostRead reg).pend = s.pend := by
  rcases s.hostRead_cases reg with ⟨e, -⟩ | ⟨e, -⟩ <;> rw [e]

/-- BUSY reads 1 exactly when PEND is full (rule R18). -/
theorem State.busy_eq_true_iff (s : State) : s.busy = true ↔ s.pend ≠ none := by
  simp [State.busy, Option.isSome_iff_ne_none]

/-- With PEND empty a write to CMD latches bits 31:0 (rule R34). -/
theorem State.hostWrite_cmd_of_idle {s : State} (h : s.pend = none) (v : Word64) :
    s.hostWrite .cmd v = { s with pend := some (v.extractLsb' 0 32) } := by
  rw [← BitVec.setWidth_eq_extractLsb' (by decide)]
  exact State.unlessBusy_of_idle (s.busy_eq_false_iff.mpr h) _

/-- With PEND empty a write to X is accepted (rule R36). -/
theorem State.hostWrite_x_of_idle {s : State} (h : s.pend = none) (v : Word64) :
    s.hostWrite .x v = { s with x := v } :=
  State.unlessBusy_of_idle (s.busy_eq_false_iff.mpr h) _

/-- With PEND empty a write to a field-register word is accepted (rule R38). -/
theorem State.hostWrite_fword_of_idle {s : State} (h : s.pend = none) (r : Reg) (j : Fin 6) (v : Word64) :
    s.hostWrite (.fword r j) v = s.writeF r (setElemWord (s.readF r) j v) :=
  State.unlessBusy_of_idle (s.busy_eq_false_iff.mpr h) _

/-! ## Which accesses are refused (rules R29, R32, R108) -/

/-- An access is refused exactly if it is not one the block defines or is made while reset is asserted. -/
theorem State.exists_access_refused_iff {s : State} {addr : HostAddr} {size : Nat} {effect : WindowReg → State} :
    (∃ why, s.access addr size effect = .refused why) ↔ ¬ (s.inReset = false ∧ accessDefined addr size) := by
  constructor
  · rintro ⟨why, refused⟩ ⟨hr, rfl, o, ho, ha⟩
    cases (State.access_of_defined effect hr ho ha).symm.trans refused
  · intro undefined
    cases answer : s.access addr size effect with
    | next t =>
      obtain ⟨hr, hw, o, ho, ha, -⟩ := State.access_next answer
      exact absurd ⟨hr, hw, o, ho, ha⟩ undefined
    | fault why => cases why
    | refused why => exact ⟨why, rfl⟩

/-- A host read is refused exactly if it is not one the block defines or is made while reset is asserted. -/
theorem State.exists_memRead_refused_iff {s : State} {addr : HostAddr} {size : Nat} :
    (∃ why, s.memRead addr size = .refused why) ↔ ¬ (s.inReset = false ∧ accessDefined addr size) :=
  State.exists_access_refused_iff

/-- A host write is refused exactly if it is not one the block defines or is made while reset is asserted. -/
theorem State.exists_memWrite_refused_iff {s : State} {addr : HostAddr} {size : Nat} {v : Word64} :
    (∃ why, s.memWrite addr size v = .refused why) ↔ ¬ (s.inReset = false ∧ accessDefined addr size) :=
  State.exists_access_refused_iff (effect := fun reg => s.hostWrite reg v)

/-- STATUS, which a POLL reads, is at an offset the block defines (rules R30, R54). -/
theorem accessDefined_status : accessDefined (.window 0x008) 8 := ⟨rfl, 0x008, rfl, rfl⟩

/-! ## What the engine's turn answers (rules R50, R52, R97) -/

/-- Every command goes on: an error is a code in ERR, not a stop (rules R96, R102). -/
theorem exists_exec (i : Instr) (s : State) : ∃ t, exec i s = .next t := by
  cases i with
  | inv rd rs1 =>
    by_cases hz : s.readF rs1 = 0
    · exact ⟨_, exec_inv_of_zero rd hz⟩
    · exact ⟨_, exec_inv_of_ne_zero rd hz⟩
  | hexput c =>
    cases hv : digitValue c with
    | none => exact ⟨_, exec_hexput_of_invalid s hv⟩
    | some v => exact ⟨_, exec_hexput_of_valid s hv⟩
  | hexe rd =>
    by_cases hm : s.hbad = true ∨ s.hany = false
    · exact ⟨_, exec_hexe_of_malformed rd hm⟩
    · exact ⟨_, exec_hexe_of_wellFormed rd hm⟩
  | hexget =>
    by_cases hl : s.hoptr < s.holen
    · exact ⟨_, exec_hexget_of_lt hl⟩
    · exact ⟨_, exec_hexget_of_not_lt hl⟩
  | zero | one | mov | eq | add | mul | sqr | powx | powf | trace | hexb | tohex => exact ⟨_, rfl⟩

/-- A word that decodes to no command is only reported (rules R50, R97). -/
theorem executeWord_of_illegal {w : Word32} (s : State) (h : decode w = none) :
    executeWord w s = .next (s.raise .illegalCommand).retire := by
  simp [executeWord, h]

/-- A word that decodes to a command is that command, and PEND emptied (rule R52). -/
theorem executeWord_of_exec {w : Word32} {i : Instr} {s t : State} (hd : decode w = some i) (he : exec i s = .next t) :
    executeWord w s = .next t.retire := by
  simp [executeWord, hd, he]

/-- The engine's turn goes on: nothing is latched, or the word is illegal, or it is a command (rule R52). -/
theorem exists_engineStep (s : State) : ∃ t, engineStep s = .next t := by
  rcases engineStep_cases s with ⟨idle, -⟩ | ⟨w, -, -, runs⟩
  · exact ⟨s, idle⟩
  · rw [runs]
    cases hd : decode w with
    | none => exact ⟨_, executeWord_of_illegal s hd⟩
    | some i =>
      obtain ⟨t, ht⟩ := exists_exec i s
      exact ⟨_, executeWord_of_exec hd ht⟩

/-- The engine's turn leaves PEND as it is, or empty (rule R52). -/
theorem engineStep_pend {s t : State} (h : engineStep s = .next t) : t.pend = s.pend ∨ t.pend = none := by
  rcases engineStep_cases s with ⟨idle, -⟩ | ⟨w, -, -, runs⟩
  · cases idle.symm.trans h
    exact .inl rfl
  · rcases executeWord_next (runs ▸ h) with ⟨-, rfl⟩ | ⟨i, u, -, -, rfl⟩ <;> exact .inr rfl

/-- No engine's turn is refused: every one goes on. -/
theorem engineStep_ne_refused (s : State) (why : Refusal) : engineStep s ≠ .refused why := by
  obtain ⟨t, ht⟩ := exists_engineStep s
  simp [ht]

/-! ## What a step keeps of PEND, and when it is refused -/

/-- A step leaves a latched word as it is, or PEND empty (rule R43): a host write does not touch it, a read changes no
register, the engine's turn retires it or waits, and reset abandons it. -/
theorem step_keeps_latched {s t : State} {w : Word32} (hp : s.pend = some w) (h : step s = .next t) :
    t.pend = some w ∨ t.pend = none := by
  rw [← hp]
  rcases step_next h with ⟨-, engine⟩ | ⟨i, rest, -, hc⟩
  · exact engineStep_pend engine
  · rcases hc with ⟨addr, size, v, -, write⟩ | ⟨addr, size, -, read⟩ | ⟨-, -, -, engine⟩ | ⟨-, -, read⟩ | ⟨-, engine⟩ |
      ⟨-, rfl⟩ | ⟨-, -, rfl⟩ | ⟨-, -, rfl⟩
    · obtain ⟨-, -, o, -, -, rfl⟩ := State.access_next write
      exact .inl ((State.hostWrite_keeps_latched { s with inputs := rest } (regAt o) v hp).1.trans hp.symm)
    · obtain ⟨-, -, o, -, -, rfl⟩ := State.access_next read
      exact .inl (State.hostRead_pend _ (regAt o))
    · exact engineStep_pend engine
    · obtain ⟨-, -, o, -, -, rfl⟩ := State.access_next read
      exact .inl (State.hostRead_pend _ (regAt o))
    · exact engineStep_pend (s := { s with inputs := rest }) engine
    · exact .inr rfl
    · exact .inr rfl
    · exact .inl rfl

/-- A POLL is refused exactly while reset is asserted: its read of STATUS is one the block defines (rules R54, R108). -/
theorem exists_pollStep_refused_iff (rest : List Input) (s : State) :
    (∃ why, pollStep rest s = .refused why) ↔ s.inReset = true := by
  unfold pollStep
  split
  case isTrue waits =>
    have released : s.inReset = false := by simpa using (Bool.and_eq_true_iff.mp waits).2
    simp [engineStep_ne_refused, released]
  case isFalse =>
    refine State.exists_memRead_refused_iff.trans ?_
    simp [accessDefined_status]

/-- The step of an input is refused exactly if the input is not admitted (rules R32, R108). -/
theorem exists_inputStep_refused_iff (i : Input) (rest : List Input) (s : State) :
    (∃ why, inputStep i rest s = .refused why) ↔ ¬ i.admitted s := by
  cases i with
  | write addr size v => exact State.exists_memWrite_refused_iff (s := { s with inputs := rest })
  | read addr size => exact State.exists_memRead_refused_iff (s := { s with inputs := rest })
  | poll => exact (exists_pollStep_refused_iff rest s).trans (Bool.not_eq_false _).symm.to_iff
  | engineTurn => simp [inputStep, engineStep_ne_refused, Input.admitted]
  | resetAssert => simp [inputStep, Input.admitted]
  | resetRelease => simp [inputStep, Input.admitted]

/-! ## The obligations on the register window -/

/-- Settles O10: the word by the map and its bits, the byte by its lane. -/
theorem wordAndByteOrder : Obligations.WordAndByteOrder := by
  refine ⟨fun s r i hi => ?_, fun s o b k ho hb hk => s.getLsbD_byteAt ho hb hk⟩
  have place : regAt (0x100 + 0x40 * r.val + 8 * (i / 64)) = .fword r ⟨i / 64, by omega⟩ :=
    regAt_fword r ⟨i / 64, by omega⟩
  have inWord : i % 64 < 64 := by omega
  rw [place, State.readReg, getLsbD_elemWord]
  simp [inWord, Nat.div_add_mod]

/-- Settles O17: `getLsbD_setElemWord` for the write, `getLsbD_elemWord` for the read. -/
theorem fieldWordAccess : Obligations.FieldWordAccess := by
  intro s r j v
  rw [regAt_fword]
  refine ⟨fun busy => State.hostWrite_of_busy v (s.busy_eq_true_iff.mpr busy) (.inr (.inr ⟨r, j, rfl⟩)),
    fun idle => ⟨_, State.hostWrite_fword_of_idle idle r j v, fun i hi => ?_,
      fun q hq => s.readF_writeF_other r q _ hq, rfl⟩,
    fun idle => ⟨_, State.hostRead_of_specified (.inl (s.busy_eq_false_iff.mpr idle)), fun i hi => ?_⟩,
    fun _ => s.hostRead_records _⟩
  · rw [State.readF_writeF_same, getLsbD_setElemWord _ _ _ hi]
  · rw [State.readReg, getLsbD_elemWord, decide_eq_true hi, Bool.true_and]
    by_cases below : 64 * j.val + i < 359
    · simp [below]
    · simp [below, BitVec.getLsbD_of_ge _ _ (not_lt.mp below)]

/-- Settles O18: the CMD write by its two cases, every host write and every step by what they keep of PEND. -/
theorem latchedCommandIsNeverChanged : Obligations.LatchedCommandIsNeverChanged :=
  ⟨fun _ v idle => by rw [State.hostWrite_cmd_of_idle idle v],
    fun s v busy => State.hostWrite_of_busy v (s.busy_eq_true_iff.mpr busy) (.inl rfl),
    fun s reg v _ hp => (s.hostWrite_keeps_latched reg v hp).1,
    fun _ _ _ hp h => step_keeps_latched hp h⟩

/-- Settles O58: with inputs left by `exists_inputStep_refused_iff`; with none the step is the engine's turn. -/
theorem stepStopsOnlyAtRefusedAccesses : Obligations.StepStopsOnlyAtRefusedAccesses := by
  refine fun s => ⟨(nomatch ·), fun refused => ?_, fun i rest hin notAdmitted => ?_⟩
  · unfold step at refused
    split at refused
    · obtain ⟨why, refused⟩ := refused
      exact absurd refused (engineStep_ne_refused s why)
    · rename_i i rest hin
      exact ⟨i, rest, hin, (exists_inputStep_refused_iff i rest s).mp refused⟩
  · rw [step, hin]
    exact (exists_inputStep_refused_iff i rest s).mpr notAdmitted

/-- Settles O9: the four scalar registers by evaluation, the words and the reserved ranges by the map's two laws. -/
theorem windowMap : Obligations.WindowMap := by
  refine ⟨rfl, rfl, rfl, rfl, regAt_fword, fun o _ _ place => ?_⟩
  rcases place with ⟨low, high⟩ | ⟨r, rfl | rfl⟩ | high
  · exact regAt_eq_reserved low (by omega)
  · exact regAt_eq_reserved (by omega) (by omega)
  · exact regAt_eq_reserved (by omega) (by omega)
  · exact regAt_eq_reserved (by omega) (by omega)

/-- Settles O11: CORE_BASE is a multiple by construction, and an address names an offset by the two laws of `offset?`. -/
theorem windowStandsAtCoreBase : Obligations.WindowStandsAtCoreBase := by
  refine ⟨Nat.mul_mod_right _ _, fun o ho => ⟨?_, ?_⟩, fun a o named => ?_, fun o ho => ?_⟩
  · exact HostAddr.offset?_window_eq_some_iff.mpr ⟨ho, rfl⟩
  · exact HostAddr.offset?_absolute_eq_some_iff.mpr ⟨ho, rfl⟩
  · obtain ⟨inWindow, rfl⟩ := HostAddr.offset?_absolute_eq_some_iff.mp named
    omega
  · refine Option.eq_none_iff_forall_ne_some.mpr fun p named => ?_
    have inWindow := (HostAddr.offset?_window_eq_some_iff.mp named).1
    omega

/-- Settles O12: a defined access by `State.access_of_defined`, any other is refused by the two laws of a refused access. -/
theorem onlyAlignedWordAccessesAreDefined : Obligations.OnlyAlignedWordAccessesAreDefined := by
  refine fun s addr size v released => ⟨?_, fun undefined => ?_⟩
  · rintro ⟨rfl, o, ho, ha⟩
    exact ⟨o, ho, State.access_of_defined _ released ho ha, State.access_of_defined _ released ho ha⟩
  · exact ⟨State.exists_memRead_refused_iff.mpr fun h => undefined h.2,
      State.exists_memWrite_refused_iff.mpr fun h => undefined h.2⟩

/-- Settles O13, by the two cases of a host read. -/
theorem readsChangeNoRegister : Obligations.ReadsChangeNoRegister := by
  intro s reg
  rcases s.hostRead_cases reg with ⟨e, specified⟩ | ⟨e, busy, -⟩ <;> rw [e]
  · refine ⟨rfl, ⟨_, rfl⟩, fun _ => rfl, fun busy result => ?_⟩
    simp [busy, result] at specified
  · exact ⟨rfl, ⟨_, rfl⟩, fun idle => by simp [busy] at idle, fun _ _ => rfl⟩

/-- Settles O14: a CMD write by its two cases, and an illegal latched word by `executeWord_of_illegal`. -/
theorem commandWriteLatchesOrOverruns : Obligations.CommandWriteLatchesOrOverruns := by
  refine fun s v => ⟨fun idle => ⟨State.hostWrite_cmd_of_idle idle v, ?_⟩,
    fun busy => State.hostWrite_of_busy v (s.busy_eq_true_iff.mpr busy) (.inl rfl),
    State.hostRead_of_specified (.inr rfl), fun idle released illegal => ?_⟩
  · rw [show regAt 0x000 = .cmd from rfl, State.hostWrite_cmd_of_idle idle v]
    rfl
  · rw [show regAt 0x000 = .cmd from rfl, State.hostWrite_cmd_of_idle idle v]
    have answers := (engineStep_of_latched (s := { s with pend := some (v.extractLsb' 0 32) }) rfl released).trans
      (executeWord_of_illegal _ illegal)
    refine ⟨_, answers, ?_⟩
    rw [State.agreesWith_iff, State.retire, ← idle]
    rfl

/-- Settles O15: the read's bits by `State.getLsbD_statusWord`, the write by definition of `State.writeStatus`. -/
theorem statusReadAndWrite : Obligations.StatusReadAndWrite := by
  refine fun s => ⟨State.hostRead_of_specified (.inr rfl), s.getLsbD_statusWord 0, s.getLsbD_statusWord 1,
    s.statusWord_err, fun i h0 h1 place => ?_, fun v => rfl⟩
  rw [s.getLsbD_statusWord, if_neg h0, if_neg h1]
  rcases place with low | high
  · simp [low]
  · simp [s.err.getLsbD_of_ge (i - 4) (by omega)]

/-- Settles O16: X by BUSY's two cases, S and the reserved offsets by what a read returns; a write to either is no write. -/
theorem exponentScalarAndReservedAccess : Obligations.ExponentScalarAndReservedAccess :=
  fun s v =>
    ⟨fun busy => State.hostWrite_of_busy v (s.busy_eq_true_iff.mpr busy) (.inr (.inl rfl)),
      fun idle => State.hostWrite_x_of_idle idle v,
      State.hostRead_of_specified (.inr rfl),
      fun idle => State.hostRead_of_specified (.inl (s.busy_eq_false_iff.mpr idle)),
      fun _ => s.hostRead_records _,
      rfl,
      fun _ reserved => by rw [reserved]; exact ⟨State.hostRead_of_specified (.inr rfl), rfl⟩⟩

end Sys2Proof.Machine

namespace Sys2Proof

/-! ## Which words a row matches (rules R47 to R49) -/

/-- Two command words are equal exactly if their six fields are (rule R45). -/
theorem word_eq_iff_fields (v w : Word32) :
    v = w ↔ v.extractLsb' 24 8 = w.extractLsb' 24 8 ∧ v.extractLsb' 20 4 = w.extractLsb' 20 4 ∧
      v.extractLsb' 16 4 = w.extractLsb' 16 4 ∧ v.extractLsb' 12 4 = w.extractLsb' 12 4 ∧
      v.extractLsb' 8 4 = w.extractLsb' 8 4 ∧ v.extractLsb' 0 8 = w.extractLsb' 0 8 := by
  refine ⟨fun h => by simp [h], fun ⟨hop, hrd, h1, h2, hz, hi⟩ => ?_⟩
  simp only [BitVec.toNat_eq, BitVec.extractLsb'_toNat, Nat.shiftRight_eq_div_pow] at *
  omega

/-- A mask's bits over one field: none where the format uses the field, all of them where it must be zero. -/
def fieldMask (used : Bool) (n : Nat) : BitVec n := if used then 0#n else BitVec.allOnes n

/-- A field under its mask is zero exactly if the format uses the field or the field is zero. -/
theorem and_fieldMask_eq_zero_iff (w : Word32) (used : Bool) (lo n : Nat) :
    w.extractLsb' lo n &&& fieldMask used n = 0#n ↔ (used || w.toNat / 2 ^ lo % 2 ^ n == 0) = true := by
  cases used
  · simp [fieldMask, BitVec.toNat_eq, BitVec.extractLsb'_toNat, Nat.shiftRight_eq_div_pow]
  · simp [fieldMask]

/-- Rule R49's test as an equation. -/
theorem Row.matchesWord_iff {row : Row} {w : Word32} : row.matchesWord w = true ↔ w &&& row.format.mask = row.bits :=
  beq_iff_eq

/-- The mask of a format by its fields: all of OP and Z, and the fields the format does not use (rule R47). -/
theorem Format.mask_fields (fmt : Format) :
    fmt.mask.extractLsb' 24 8 = BitVec.allOnes 8 ∧ fmt.mask.extractLsb' 20 4 = fieldMask fmt.usesRd 4 ∧
    fmt.mask.extractLsb' 16 4 = fieldMask fmt.usesRs1 4 ∧ fmt.mask.extractLsb' 12 4 = fieldMask fmt.usesRs2 4 ∧
    fmt.mask.extractLsb' 8 4 = fieldMask false 4 ∧ fmt.mask.extractLsb' 0 8 = fieldMask fmt.usesImm8 8 := by
  cases fmt <;> decide

/-- Every field that the format does not use, Z included, is zero (rule R47). -/
def Format.unusedFieldsZero (fmt : Format) (w : Word32) : Bool :=
  rdFieldOk fmt w && rs1FieldOk fmt w && rs2FieldOk fmt w && zFieldOk w && imm8FieldOk fmt w

/-- A row's opcode: bits 31:24 of its match (rule R48). -/
def Row.opcode (row : Row) : BitVec 8 := row.bits.extractLsb' 24 8

/-- A row's match has nothing but its opcode (rule R48). -/
theorem rows_bits_fields : ∀ row ∈ rows,
    row.bits.extractLsb' 20 4 = 0#4 ∧ row.bits.extractLsb' 16 4 = 0#4 ∧ row.bits.extractLsb' 12 4 = 0#4 ∧
    row.bits.extractLsb' 8 4 = 0#4 ∧ row.bits.extractLsb' 0 8 = 0#8 := by decide

/-- The masked comparison of rule R49 is the field-by-field check of rule R50. -/
theorem and_mask_eq_bits_iff {row : Row} (hrow : row ∈ rows) (w : Word32) :
    w &&& row.format.mask = row.bits ↔
      w.extractLsb' 24 8 = row.opcode ∧ row.format.unusedFieldsZero w = true := by
  obtain ⟨mop, mrd, m1, m2, mz, mi⟩ := row.format.mask_fields
  obtain ⟨brd, b1, b2, bz, bi⟩ := rows_bits_fields row hrow
  simp only [word_eq_iff_fields, BitVec.extractLsb'_and, mop, mrd, m1, m2, mz, mi, brd, b1, b2, bz, bi,
    BitVec.and_allOnes, and_fieldMask_eq_zero_iff]
  simp [Row.opcode, Format.unusedFieldsZero, rdFieldOk, rs1FieldOk, rs2FieldOk, zFieldOk, imm8FieldOk, and_assoc]

/-- The rows have different opcodes (rule R48). -/
theorem rows_opcodes_nodup : (rows.map Row.opcode).Nodup := by decide

/-- Two rows that match the same word are the same: every mask covers OP, and the rows' opcodes differ (rule R49). -/
theorem eq_of_and_mask_eq_bits {row row' : Row} {w : Word32} (hrow : row ∈ rows) (hrow' : row' ∈ rows)
    (h : w &&& row.format.mask = row.bits) (h' : w &&& row'.format.mask = row'.bits) : row = row' := by
  have hop := ((and_mask_eq_bits_iff hrow w).mp h).1
  have hop' := ((and_mask_eq_bits_iff hrow' w).mp h').1
  exact List.inj_on_of_nodup_map rows_opcodes_nodup hrow hrow' (hop.symm.trans hop')

/-- Rows with one opcode number at most one. -/
theorem length_le_one_of_sublist_rows {l : List Row} {op : BitVec 8} (sub : l.Sublist rows)
    (same : ∀ row ∈ l, row.opcode = op) : l.length ≤ 1 := by
  have different : (l.map Row.opcode).Nodup := rows_opcodes_nodup.sublist (sub.map Row.opcode)
  rw [List.map_eq_replicate_iff.mpr same] at different
  exact List.nodup_replicate.mp different

/-- At most one row matches a word: a row that matches has the word's opcode (rule R49). -/
theorem length_filter_rows_le_one (w : Word32) :
    (rows.filter fun row => w &&& row.format.mask == row.bits).length ≤ 1 := by
  refine length_le_one_of_sublist_rows (op := w.extractLsb' 24 8) List.filter_sublist fun row hmem => ?_
  obtain ⟨hrow, h⟩ := List.mem_filter.mp hmem
  exact ((and_mask_eq_bits_iff hrow w).mp (beq_iff_eq.mp h)).1.symm

/-! ## The decoder (rules R49, R50) -/

/-- The row that matches gives the command (rule R49). -/
theorem decode_of_and_mask_eq_bits {row : Row} {w : Word32} (hrow : row ∈ rows)
    (h : w &&& row.format.mask = row.bits) : decode w = some (row.command (fieldsOf w)) := by
  obtain ⟨found, hfind⟩ : ∃ found, rows.find? (fun r => r.matchesWord w) = some found :=
    Option.isSome_iff_exists.mp (List.find?_isSome.mpr ⟨row, hrow, Row.matchesWord_iff.mpr h⟩)
  have matched : w &&& found.format.mask = found.bits := Row.matchesWord_iff.mp (List.find?_some hfind :)
  have same : found = row := eq_of_and_mask_eq_bits (List.mem_of_find?_eq_some hfind) hrow matched h
  rw [decode, hfind, same, Option.map_some]

/-- Decoding answers ILLEGAL exactly if no row matches (rule R49). -/
theorem decode_eq_none_iff (w : Word32) : decode w = none ↔ ∀ row ∈ rows, w &&& row.format.mask ≠ row.bits := by
  simp [decode, Row.matchesWord_iff]

/-- The listed opcodes are the rows' opcodes, with the rows' formats (rules R48, R50). -/
theorem formatOfOpcode_eq_some_iff (op : Nat) (fmt : Format) :
    formatOfOpcode op = some fmt ↔ ∃ row ∈ rows, op = row.opcode.toNat ∧ row.format = fmt := by
  constructor
  · intro h
    unfold formatOfOpcode at h
    split at h <;> cases h <;> decide
  · have listed : ∀ row ∈ rows, formatOfOpcode row.opcode.toNat = some row.format := by decide
    rintro ⟨row, hrow, rfl, rfl⟩
    exact listed row hrow

/-- A word is well formed exactly if its opcode is listed and the fields its format does not use are zero (rule R50). -/
theorem wordWellFormed_iff (w : Word32) :
    wordWellFormed w = true ↔
      ∃ fmt, formatOfOpcode (w.extractLsb' 24 8).toNat = some fmt ∧ fmt.unusedFieldsZero w = true := by
  have hop : (w.extractLsb' 24 8).toNat = w.toNat / 2 ^ 24 := by
    simp only [BitVec.extractLsb'_toNat, Nat.shiftRight_eq_div_pow]
    omega
  rw [wordWellFormed, hop]
  cases formatOfOpcode (w.toNat / 2 ^ 24) <;> simp [Format.unusedFieldsZero]

/-- A word is well formed exactly if a row matches it: the two readings of the tables agree (rules R49, R50). -/
theorem wordWellFormed_iff_exists_row (w : Word32) :
    wordWellFormed w = true ↔ ∃ row ∈ rows, w &&& row.format.mask = row.bits := by
  simp only [wordWellFormed_iff, formatOfOpcode_eq_some_iff, BitVec.toNat_inj]
  constructor
  · rintro ⟨-, ⟨row, hrow, hop, rfl⟩, unused⟩
    exact ⟨row, hrow, (and_mask_eq_bits_iff hrow w).mpr ⟨hop, unused⟩⟩
  · rintro ⟨row, hrow, h⟩
    obtain ⟨hop, unused⟩ := (and_mask_eq_bits_iff hrow w).mp h
    exact ⟨row.format, ⟨row, hrow, hop, rfl⟩, unused⟩

/-- Decoding answers ILLEGAL exactly for the words that are not well formed (rule R50). -/
theorem decode_eq_none_iff_not_wordWellFormed (w : Word32) : decode w = none ↔ wordWellFormed w = false := by
  rw [decode_eq_none_iff, ← Bool.not_eq_true, wordWellFormed_iff_exists_row]
  simp only [not_exists, not_and, ne_eq]

/-- The 240 unlisted opcodes (rule R50). -/
theorem formatOfOpcode_eq_none_iff (op : Nat) : formatOfOpcode op = none ↔
    op = 0x00 ∨ 0x05 ≤ op ∧ op ≤ 0x0F ∨ 0x17 ≤ op ∧ op ≤ 0x1F ∨ 0x25 ≤ op := by
  unfold formatOfOpcode
  split
  case h_17 =>
    simp only [imp_false, true_iff] at *
    omega
  all_goals simp

/-! ## The obligations on the decoder -/

/-- Settles O19: the words by the agreement of the two readings, their effect by `executeWord_of_illegal`. -/
theorem illegalWordsAreReported : Obligations.IllegalWordsAreReported :=
  ⟨decode_eq_none_iff_not_wordWellFormed, by decide +kernel, fun op _ => formatOfOpcode_eq_none_iff op, by decide,
    fun _ s illegal => Machine.executeWord_of_illegal s illegal⟩

/-- Settles O20: a match decides the row, as no other row has its opcode. -/
theorem decodingFollowsTheTable : Obligations.DecodingFollowsTheTable :=
  ⟨rfl, fun _ _ hrow h => decode_of_and_mask_eq_bits hrow h, fun w h => (decode_eq_none_iff w).mpr h,
    length_filter_rows_le_one⟩

end Sys2Proof

namespace Sys2Proof

/-! ## The words of each command (rules R46 to R49) -/

/-- The opcode of a packed word is its first byte (rule R45). -/
theorem packWord_opcode (op : BitVec 8) (rd rs1 rs2 : Reg) (imm8 : Byte) :
    (packWord op rd rs1 rs2 imm8).extractLsb' 24 8 = op := by
  have value := Laws.packWord_toNat op rd rs1 rs2 imm8
  simp only [BitVec.toNat_eq, BitVec.extractLsb'_toNat, Nat.shiftRight_eq_div_pow, value]
  omega

/-- The commands of a row are encoded with the row's opcode (rule R48). -/
theorem encode_command_opcode {row : Row} (hrow : row ∈ rows) (k : Fields) :
    (encode (row.command k)).extractLsb' 24 8 = row.opcode := by
  revert row
  simp [rows, encode, packWord_opcode, Row.opcode]

/-- Two rows that make the same command are the same row: its opcode decides (rule R48). -/
theorem eq_of_command_eq {row row' : Row} {k k' : Fields} (hrow : row ∈ rows) (hrow' : row' ∈ rows)
    (h : row.command k = row'.command k') : row = row' := by
  have same : row.opcode = row'.opcode := by
    rw [← encode_command_opcode hrow k, h, encode_command_opcode hrow' k']
  exact List.inj_on_of_nodup_map rows_opcodes_nodup hrow hrow' same

/-- A word that decodes was matched by a row, which made the command from the word's fields (rule R49). -/
theorem exists_row_of_decode_eq_some {w : Word32} {i : Instr} (h : decode w = some i) :
    ∃ row ∈ rows, w &&& row.format.mask = row.bits ∧ row.command (fieldsOf w) = i := by
  obtain ⟨row, found, made⟩ := Option.map_eq_some_iff.mp h
  exact ⟨row, List.mem_of_find?_eq_some found, Row.matchesWord_iff.mp (List.find?_some found :), made⟩

/-- The words of a row's commands are those that agree with its match under its format's mask (rules R47 to R49). -/
theorem encodedAs_of_mem_rows {fmt : Format} {bits : Word32} {mk : Fields → Instr}
    (hrow : ⟨fmt, bits, mk⟩ ∈ rows) : Machine.EncodedAs bits fmt.mask mk := by
  refine fun w => ⟨fun h => decode_of_and_mask_eq_bits hrow h, ?_⟩
  rintro ⟨k, decoded⟩
  obtain ⟨found, hfound, matched, made⟩ := exists_row_of_decode_eq_some decoded
  cases eq_of_command_eq hfound hrow made
  exact matched

end Sys2Proof

namespace Sys2Proof.Machine

/-! ## Constants, assignment, equality and addition (rules R56 to R60) -/

/-- A command that leaves what writing `v` to F[rd] and completing leaves has `v` in F[rd], ERR = 0 and all else kept. -/
theorem completesInF_of_completesAs {i : Instr} {rd : Reg} {v : Elem} {s : State}
    (h : CompletesAs i (s.writeF rd v).complete s) : CompletesInF i rd v s := by
  obtain ⟨t, answer, agrees⟩ := h
  refine ⟨t, answer, ?_, fun r hr => ?_, ?_⟩
  · rw [State.readF_of_agreesWith agrees, State.readF_complete, State.readF_writeF_same]
  · rw [State.readF_of_agreesWith agrees, State.readF_complete, State.readF_writeF_other _ _ _ _ hr]
  · rw [State.agreesWith_iff.mp agrees]
    rfl

/-- A command that writes `v` to F[rd] and completes has `v` in F[rd], ERR = 0 and all else kept. -/
theorem completesInF_of_exec {i : Instr} {rd : Reg} {v : Elem} {s : State}
    (h : exec i s = .next (s.writeF rd v).complete) : CompletesInF i rd v s :=
  completesInF_of_completesAs (completesAs_of_exec h)

/-- MOV answers the state with the value of F[rs1] in F[rd] (rule R58). -/
theorem exec_mov (rd rs1 : Reg) (s : State) :
    exec (.mov rd rs1) s = .next (s.writeF rd (s.readF rs1)).complete := rfl

/-- EQ of registers that hold the same element (rule R59). -/
theorem exec_eq_of_eq {rs1 rs2 : Reg} {s : State} (h : s.readF rs1 = s.readF rs2) :
    exec (.eq rs1 rs2) s = .next { s with sreg := 1, err := 0 } := by
  rw [exec, execEq, beq_iff_eq.mpr h]
  rfl

/-- EQ of registers that hold different elements (rule R59). -/
theorem exec_eq_of_ne {rs1 rs2 : Reg} {s : State} (h : s.readF rs1 ≠ s.readF rs2) :
    exec (.eq rs1 rs2) s = .next { s with sreg := 0, err := 0 } := by
  rw [exec, execEq, beq_eq_false_iff_ne.mpr h]
  rfl

/-- Settles O25: ZERO's row gives its words, its meaning is one write. -/
theorem zeroWritesTheZeroElement : Obligations.ZeroWritesTheZeroElement :=
  ⟨encodedAs_of_mem_rows (fmt := .d) (by simp [rows]), by decide, fun _ _ => completesInF_of_exec rfl⟩

/-- Settles O26: ONE's row gives its words, its meaning is one write. -/
theorem oneWritesTheOneElement : Obligations.OneWritesTheOneElement :=
  ⟨encodedAs_of_mem_rows (fmt := .d) (by simp [rows]), by decide, fun _ _ => completesInF_of_exec rfl⟩

/-- Settles O27: MOV's row gives its words, its meaning is one write; a later write to one of two different registers is not
seen by a read of the other. -/
theorem movCopiesARegister : Obligations.MovCopiesARegister := by
  refine ⟨encodedAs_of_mem_rows (fmt := .ds) (by simp [rows]), by decide,
    fun rd rs1 s => completesInF_of_exec (exec_mov rd rs1 s), fun rd rs1 s t a different h => ?_⟩
  rw [exec_mov] at h
  cases h
  constructor
  · rw [State.readF_writeF_other _ _ _ _ different, State.readF_complete, State.readF_writeF_same]
  · rw [State.readF_writeF_other _ _ _ _ different.symm, State.readF_complete,
      State.readF_writeF_other _ _ _ _ different.symm]

/-- Settles O28: EQ's row gives its words; two elements are equal exactly if their 359 coefficients are. -/
theorem eqComparesAllCoefficients : Obligations.EqComparesAllCoefficients := by
  refine ⟨encodedAs_of_mem_rows (fmt := .st) (by simp [rows]), by decide, fun rs1 rs2 s => ⟨fun agree => ?_, ?_⟩⟩
  · exact completesAs_of_exec (exec_eq_of_eq (BitVec.eq_of_getLsbD_eq agree))
  · rintro ⟨i, -, differ⟩
    exact completesAs_of_exec (exec_eq_of_ne fun same => differ (by rw [same]))

/-- Settles O29: ADD's row gives its words, its meaning is one write of the sum; the corner cases are this sum's. -/
theorem addIsCoefficientwiseXor : Obligations.AddIsCoefficientwiseXor := by
  refine ⟨encodedAs_of_mem_rows (fmt := .dst) (by simp [rows]), by decide, fun rd rs1 rs2 s => ?_⟩
  have sum : CompletesInF (.add rd rs1 rs2) rd (s.readF rs1 ^^^ s.readF rs2) s := completesInF_of_exec rfl
  refine ⟨sum, fun same => ?_, fun zero => ?_, fun zero => ?_⟩
  · simpa [same] using sum
  · simpa [zero] using sum
  · simpa [zero] using sum

end Sys2Proof.Machine

namespace Sys2Proof.Machine

/-! ## A `Poly` as a polynomial over GF(2)

Rule R8's reading of a number as a polynomial, into Mathlib's ring (ZMod 2)[X]: XOR becomes the sum, a shift the product by
a power of X, and each product of the model the product of the ring. Laws of the ring so become laws of the model. -/

open Polynomial

/-- A bit as a coefficient. -/
def bitCoeff (b : Bool) : ZMod 2 := if b then 1 else 0

@[simp] theorem bitCoeff_false : bitCoeff false = 0 := rfl

@[simp] theorem bitCoeff_true : bitCoeff true = 1 := rfl

theorem bitCoeff_injective : Function.Injective bitCoeff := by decide

theorem bitCoeff_xor (a b : Bool) : bitCoeff (a ^^ b) = bitCoeff a + bitCoeff b := by
  cases a <;> cases b <;> decide

theorem bitCoeff_and (a b : Bool) : bitCoeff (a && b) = bitCoeff a * bitCoeff b := by
  cases a <;> cases b <;> decide

/-- The XOR of a list of bits is their sum over GF(2). -/
theorem bitCoeff_xorBits (bs : List Bool) : bitCoeff (xorBits bs) = (bs.map bitCoeff).sum := by
  induction bs with
  | nil => rfl
  | cons b bs ih => rw [List.map_cons, List.sum_cons, ← ih]; exact bitCoeff_xor b (xorBits bs)

/-- The polynomial whose coefficients are the bits of `p` (rule R8). -/
noncomputable def polynomialOf (p : Poly) : (ZMod 2)[X] :=
  ∑ i ∈ Finset.range (Nat.log2 p + 1), monomial i (bitCoeff (p.testBit i))

/-- Coefficient k is bit k. -/
@[simp] theorem coeff_polynomialOf (p : Poly) (k : Nat) : (polynomialOf p).coeff k = bitCoeff (p.testBit k) := by
  have above : Nat.log2 p + 1 ≤ k → p.testBit k = false := fun h =>
    Nat.testBit_lt_two_pow (Nat.lt_log2_self.trans_le (Nat.pow_le_pow_right two_pos h))
  rw [polynomialOf, finsetSum_coeff]
  simp +contextual [coeff_monomial, above]

theorem polynomialOf_injective : Function.Injective polynomialOf := by
  intro p q h
  refine Nat.eq_of_testBit_eq fun i => bitCoeff_injective ?_
  rw [← coeff_polynomialOf, h, coeff_polynomialOf]

@[simp] theorem polynomialOf_zero : polynomialOf 0 = 0 := by
  ext k
  simp

@[simp] theorem polynomialOf_xor (p q : Poly) : polynomialOf (p ^^^ q) = polynomialOf p + polynomialOf q := by
  ext k
  simp [bitCoeff_xor]

@[simp] theorem polynomialOf_shiftLeft (p : Poly) (n : Nat) : polynomialOf (p <<< n) = polynomialOf p * X ^ n := by
  ext k
  by_cases h : n ≤ k <;> simp [coeff_mul_X_pow', h]

@[simp] theorem polynomialOf_one : polynomialOf 1 = 1 := by
  ext k
  by_cases h : k = 0
  · simp [h]
  · have clear : Nat.testBit 1 k = false := Nat.testBit_two_pow_of_ne (n := 0) (Ne.symm h)
    simp [coeff_one, h, clear]

theorem polynomialOf_surjective : Function.Surjective polynomialOf := by
  intro g
  induction g using Polynomial.induction_on' with
  | add g h hg hh =>
    obtain ⟨p, rfl⟩ := hg
    obtain ⟨q, rfl⟩ := hh
    exact ⟨p ^^^ q, polynomialOf_xor p q⟩
  | monomial n a =>
    have bit : a = 0 ∨ a = 1 := by revert a; decide
    rcases bit with rfl | rfl
    · exact ⟨0, by simp⟩
    · exact ⟨1 <<< n, by simp [X_pow_eq_monomial]⟩

/-- Degrees below n are numbers below 2^n. -/
theorem degree_polynomialOf_lt_iff {p : Poly} {n : Nat} : (polynomialOf p).degree < n ↔ p < 2 ^ n := by
  rw [degree_lt_iff_coeff_zero]
  constructor
  · intro h
    exact Nat.lt_pow_two_of_testBit p fun i hi => bitCoeff_injective ((coeff_polynomialOf p i).symm.trans (h i hi))
  · intro h m hm
    rw [coeff_polynomialOf, Nat.testBit_lt_two_pow (h.trans_le (Nat.pow_le_pow_right two_pos hm)), bitCoeff_false]

/-! ## The carry-less product and the spread (rules R62, R67) -/

/-- One more low coefficient of a polynomial. -/
theorem mod_two_pow_succ_eq_xor (q n : Nat) :
    q % 2 ^ (n + 1) = q % 2 ^ n ^^^ (if q.testBit n then 1 <<< n else 0) := by
  refine Nat.eq_of_testBit_eq fun i => ?_
  rcases lt_trichotomy i n with below | rfl | above
  · have high : ¬ n ≤ i := by omega
    split <;> simp [below, high, Nat.lt_succ_of_lt below]
  · cases h : q.testBit i <;> simp [h]
  · have low : ¬ i < n ∧ ¬ i < n + 1 := by omega
    split <;> simp [low, Nat.one_shiftLeft, Nat.testBit_two_pow_of_ne above.ne]

/-- The product by the low n coefficients of `q`. -/
theorem polynomialOf_clmulUpTo (p q : Poly) (n : Nat) :
    polynomialOf (clmulUpTo p q n) = polynomialOf p * polynomialOf (q % 2 ^ n) := by
  induction n with
  | zero => simp [clmulUpTo, Nat.mod_one]
  | succ n ih =>
    rw [clmulUpTo, mod_two_pow_succ_eq_xor, polynomialOf_xor, polynomialOf_xor, mul_add, ih]
    split <;> simp

/-- The product of rule R76 is the product of (ZMod 2)[X]. -/
theorem polynomialOf_polyMul (p q : Poly) : polynomialOf (polyMul p q) = polynomialOf p * polynomialOf q := by
  rw [polyMul, polynomialOf_clmulUpTo, Nat.mod_eq_of_lt Nat.lt_log2_self]

/-- The carry-less product of rule R62 is the product of (ZMod 2)[X]. -/
theorem polynomialOf_clmul (a b : Elem) :
    polynomialOf (clmul a b) = polynomialOf a.toNat * polynomialOf b.toNat := by
  rw [clmul, polynomialOf_clmulUpTo, Nat.mod_eq_of_lt b.isLt]

/-- The low n coefficients spread are their square: squaring is additive over GF(2). -/
theorem polynomialOf_spreadUpTo (p : Poly) (n : Nat) :
    polynomialOf (spreadUpTo p n) = polynomialOf (p % 2 ^ n) ^ 2 := by
  induction n with
  | zero => simp [spreadUpTo, Nat.mod_one]
  | succ n ih =>
    rw [spreadUpTo, mod_two_pow_succ_eq_xor, polynomialOf_xor, polynomialOf_xor, CharTwo.add_sq, ih]
    split <;> simp [← pow_mul, mul_comm]

/-- The Frobenius spread of rule R67 is the square of (ZMod 2)[X]. -/
theorem polynomialOf_spread (a : Elem) : polynomialOf (spread a) = polynomialOf a.toNat ^ 2 := by
  rw [spread, polynomialOf_spreadUpTo, Nat.mod_eq_of_lt a.isLt]

/-- The spread is the carry-less square (rules R65, R69). -/
theorem clmul_self (a : Elem) : clmul a a = spread a := by
  apply polynomialOf_injective
  rw [polynomialOf_clmul, polynomialOf_spread, sq]

theorem clmul_comm (a b : Elem) : clmul a b = clmul b a := by
  apply polynomialOf_injective
  rw [polynomialOf_clmul, polynomialOf_clmul, mul_comm]

@[simp] theorem clmul_zero (a : Elem) : clmul a 0#359 = 0 := by
  apply polynomialOf_injective
  simp [polynomialOf_clmul]

@[simp] theorem zero_clmul (a : Elem) : clmul 0#359 a = 0 := (clmul_comm 0 a).trans (clmul_zero a)

@[simp] theorem one_clmul (a : Elem) : clmul 1#359 a = a.toNat := by
  apply polynomialOf_injective
  simp [polynomialOf_clmul]

/-- Coefficient k of the carry-less product is the convolution sum (rule R62). -/
theorem testBit_clmul (a b : Elem) (k : Nat) :
    (clmul a b).testBit k = xorBits ((List.range (k + 1)).map fun i => a.getLsbD i && b.getLsbD (k - i)) := by
  apply bitCoeff_injective
  rw [← coeff_polynomialOf, polynomialOf_clmul, coeff_mul, Finset.Nat.sum_antidiagonal_eq_sum_range_succ_mk,
    bitCoeff_xorBits, List.map_map]
  simp only [coeff_polynomialOf, ← bitCoeff_and]
  rfl

/-- n coefficients of `q` take a polynomial of degree at most m to one of degree below m + n. -/
theorem clmulUpTo_lt {p : Poly} {m : Nat} (q : Poly) (hp : p < 2 ^ (m + 1)) (n : Nat) :
    clmulUpTo p q n < 2 ^ (m + n) := by
  induction n with
  | zero => exact Nat.two_pow_pos _
  | succ n ih =>
    have shifted : p <<< n < 2 ^ (m + (n + 1)) := by
      rw [Nat.shiftLeft_eq, show m + (n + 1) = m + 1 + n by omega, Nat.pow_add]
      exact Nat.mul_lt_mul_of_pos_right hp (Nat.two_pow_pos n)
    rw [clmulUpTo]
    refine Nat.xor_lt_two_pow (ih.trans (Nat.pow_lt_pow_right one_lt_two (by omega))) ?_
    split
    · exact shifted
    · exact Nat.two_pow_pos _

/-- The carry-less product has degree at most 716 (rule R62). -/
theorem clmul_lt (a b : Elem) : clmul a b < 2 ^ 717 := clmulUpTo_lt b.toNat (m := 358) a.isLt 359

/-! ## The reduction sweep (rule R63) -/

/-- f is a polynomial of degree 359 (rule R2): this is its leading coefficient. -/
theorem testBit_fPoly_lead : fPoly.testBit 359 = true := by decide +kernel

/-- f has no coefficient above 359 (rule R2). -/
theorem testBit_fPoly_of_gt {i : Nat} (hi : 359 < i) : fPoly.testBit i = false :=
  Nat.testBit_lt_two_pow (lt_of_lt_of_le (by decide +kernel : fPoly < 2 ^ 360) (Nat.pow_le_pow_right two_pos hi))

/-- The iteration for k = 359 + n leaves nothing at k or above (rule R64 item 1): it clears coefficient k, and f has none
above that would set another. -/
theorem sweepIteration_lt {n : Nat} {p : Poly} (hp : p < 2 ^ (359 + (n + 1))) :
    (if p.testBit (359 + n) then p ^^^ fPoly <<< n else p) < 2 ^ (359 + n) := by
  have high : ∀ i, 359 + n < i → p.testBit i = false := fun i hi =>
    Nat.testBit_lt_two_pow (hp.trans_le (Nat.pow_le_pow_right two_pos hi))
  refine Nat.lt_pow_two_of_testBit _ fun i hi => ?_
  rcases hi.lt_or_eq with above | rfl
  · split <;> simp [high i above, testBit_fPoly_of_gt (by omega : 359 < i - n)]
  · split
    · next isSet => simp [isSet, testBit_fPoly_lead]
    · next isClear => simpa using isClear

/-- n iterations leave nothing at 359 or above of a polynomial of degree below 359 + n (rule R64 item 1). -/
theorem sweep_lt {n : Nat} {p : Poly} (hp : p < 2 ^ (359 + n)) : sweep n p < 2 ^ 359 := by
  induction n generalizing p with
  | zero => exact hp
  | succ n ih =>
    rw [sweep_succ]
    exact ih (sweepIteration_lt hp)

/-- The sweep does not act below degree 359 (rule R64 item 3). -/
theorem sweep_of_lt {p : Poly} (hp : p < 2 ^ 359) (n : Nat) : sweep n p = p := by
  induction n with
  | zero => rfl
  | succ n ih =>
    have clear : p.testBit (359 + n) = false :=
      Nat.testBit_lt_two_pow (hp.trans_le (Nat.pow_le_pow_right two_pos (by omega)))
    rw [sweep_succ, clear]
    exact ih

/-- The sweep is linear: each iteration adds multiples of f, as many of each sum as of its terms (rule R64 item 4). -/
theorem sweep_xor (n : Nat) (p q : Poly) : sweep n (p ^^^ q) = sweep n p ^^^ sweep n q := by
  induction n generalizing p q with
  | zero => rfl
  | succ n ih =>
    rw [sweep_succ, sweep_succ, sweep_succ, ← ih]
    congr 1
    rw [Nat.testBit_xor]
    cases p.testBit (359 + n) <;> cases q.testBit (359 + n)
    · rfl
    · exact Nat.xor_assoc ..
    · exact Nat.xor_right_comm ..
    · show p ^^^ q = p ^^^ fPoly <<< n ^^^ (q ^^^ fPoly <<< n)
      rw [Nat.xor_assoc, Nat.xor_left_comm _ q, Nat.xor_self, Nat.xor_zero]

/-- On polynomials of degree at most 716 the whole sweep leaves coefficients 358:0 (rule R63). -/
theorem toNat_reduce {p : Poly} (hp : p < 2 ^ 717) : (reduce p).toNat = sweep 358 p := by
  rw [reduce, BitVec.toNat_ofNat, Nat.mod_eq_of_lt (sweep_lt (n := 358) hp)]

/-- Reduction is the identity below degree 359 (rule R64 item 3). -/
theorem toNat_reduce_of_lt {p : Poly} (hp : p < 2 ^ 359) : (reduce p).toNat = p := by
  rw [reduce, sweep_of_lt hp, BitVec.toNat_ofNat, Nat.mod_eq_of_lt hp]

@[simp] theorem reduce_toNat (a : Elem) : reduce a.toNat = a := BitVec.eq_of_toNat_eq (toNat_reduce_of_lt a.isLt)

@[simp] theorem reduce_zero : reduce 0 = 0 := reduce_toNat 0

/-- Reduction is linear (rule R64 item 4). -/
theorem reduce_xor (p q : Poly) : reduce (p ^^^ q) = reduce p ^^^ reduce q := by
  rw [reduce, sweep_xor, BitVec.ofNat_xor]
  rfl

/-! ## Residue classes modulo f

The elements of the model are the residue classes of (ZMod 2)[X] modulo f, one each; the sweep stays in its class. -/

/-- The class of a polynomial modulo f. -/
noncomputable def residue (p : Poly) : AdjoinRoot (polynomialOf fPoly) := AdjoinRoot.mk _ (polynomialOf p)

@[simp] theorem residue_zero : residue 0 = 0 := by simp [residue]

@[simp] theorem residue_one : residue 1 = 1 := by simp [residue]

@[simp] theorem residue_xor (p q : Poly) : residue (p ^^^ q) = residue p + residue q := by simp [residue]

/-- f and all its shifts are in the class of zero. -/
@[simp] theorem residue_fPoly_shiftLeft (n : Nat) : residue (fPoly <<< n) = 0 := by
  simp [residue]

@[simp] theorem residue_clmul (a b : Elem) : residue (clmul a b) = residue a.toNat * residue b.toNat := by
  simp [residue, polynomialOf_clmul]

/-- Two polynomials are in one class exactly if f divides their sum. -/
theorem residue_eq_iff {p q : Poly} :
    residue p = residue q ↔ polynomialOf fPoly ∣ polynomialOf p + polynomialOf q := by
  rw [residue, residue, AdjoinRoot.mk_eq_mk, CharTwo.sub_eq_add]

/-- Each class has one element of degree below 359, since a nonzero multiple of f has degree 359 or more. -/
theorem eq_of_residue_toNat_eq {a b : Elem} (h : residue a.toNat = residue b.toNat) : a = b := by
  have small : (polynomialOf (a.toNat ^^^ b.toNat)).degree < (359 : Nat) :=
    degree_polynomialOf_lt_iff.mpr (Nat.xor_lt_two_pow a.isLt b.isLt)
  have large : (359 : Nat) ≤ (polynomialOf fPoly).degree :=
    not_lt.mp fun lt => absurd (degree_polynomialOf_lt_iff.mp lt) (by decide +kernel)
  have zero := eq_zero_of_dvd_of_degree_lt (by simpa using residue_eq_iff.mp h) (small.trans_le large)
  refine BitVec.eq_of_toNat_eq (Nat.xor_eq_zero_iff.mp (polynomialOf_injective ?_))
  rw [zero, polynomialOf_zero]

/-- The sweep stays in the class: each iteration adds nothing or a shift of f (rule R64 item 2). -/
@[simp] theorem residue_sweep (n : Nat) (p : Poly) : residue (sweep n p) = residue p := by
  induction n generalizing p with
  | zero => rfl
  | succ n ih =>
    rw [sweep_succ, ih]
    split <;> simp

/-- The reduced polynomial is in the class of the given one (rule R64 item 2). -/
theorem residue_reduce {p : Poly} (hp : p < 2 ^ 717) : residue (reduce p).toNat = residue p := by
  rw [toNat_reduce hp, residue_sweep]

/-- The remainder is the element of the same class (rule R64 item 2). -/
theorem isRemainder_iff {p : Poly} {r : Elem} : IsRemainder p r ↔ residue r.toNat = residue p := by
  rw [eq_comm, residue_eq_iff, ← polynomialOf_xor]
  constructor
  · rintro ⟨c, hc⟩
    rw [hc, polynomialOf_polyMul]
    exact dvd_mul_right _ _
  · rintro ⟨g, hg⟩
    obtain ⟨c, rfl⟩ := polynomialOf_surjective g
    exact ⟨c, polynomialOf_injective (hg.trans (polynomialOf_polyMul fPoly c).symm)⟩

/-- The field product is the product of classes (rules R65, R66). -/
@[simp] theorem residue_fmul (a b : Elem) : residue (fmul a b).toNat = residue a.toNat * residue b.toNat := by
  rw [fmul_eq, residue_reduce (clmul_lt a b), residue_clmul]

/-- MUL answers the state with the field product in F[rd], up to the accumulator (rule R65). -/
theorem completesAs_mul (rd rs1 rs2 : Reg) (s : State) :
    CompletesAs (.mul rd rs1 rs2) (s.writeF rd (fmul (s.readF rs1) (s.readF rs2))).complete s := ⟨_, rfl, rfl⟩

/-! ## The obligations on multiplication and reduction -/

/-- Settles O31: the sweep stays in the residue class, which has one element of degree below 359. -/
theorem reductionSweepIsTheRemainder : Obligations.ReductionSweepIsTheRemainder := by
  refine ⟨fun n p hp => ⟨sweepIteration_lt hp, sweep_succ n p⟩, fun _ _ => sweep_lt, fun p hp => ⟨?_, fun r hr => ?_⟩,
    fun _ => toNat_reduce_of_lt, reduce_xor, by decide +kernel, by decide +kernel⟩
  · exact isRemainder_iff.mpr (residue_reduce hp)
  · exact eq_of_residue_toNat_eq ((isRemainder_iff.mp hr).trans (residue_reduce hp).symm)

/-- Settles O33: the laws hold of the residue classes, which form a commutative ring, and an element is known by its
class. -/
theorem mulIsCommutativeAssociativeDistributive : Obligations.MulIsCommutativeAssociativeDistributive := by
  refine fun a b c => ⟨?_, ?_, ?_, ?_, ?_⟩ <;> apply eq_of_residue_toNat_eq
  · simp [mul_comm]
  · simp [mul_assoc]
  · simp
  · simp
  · simp [add_mul]

/-- Settles O30: the convolution, the bound and the zero operands of `clmul`. -/
theorem carrylessProductCoefficients : Obligations.CarrylessProductCoefficients :=
  ⟨testBit_clmul, clmul_lt, fun a => ⟨clmul_zero a, zero_clmul a⟩⟩

/-- Settles O32: MUL's row gives its words, its meaning is one write of the field product; the corner cases are those of
`clmul`, and the two examples are evaluated. -/
theorem mulIsTheReducedProduct : Obligations.MulIsTheReducedProduct := by
  refine ⟨encodedAs_of_mem_rows (fmt := .dst) (by simp [rows]), by decide, fun rd rs1 rs2 s => ?_,
    fun a b => ⟨?_, ?_⟩, fun a => by rw [clmul_self], by decide +kernel, by decide +kernel⟩
  · rw [← fmul_eq]
    exact completesInF_of_completesAs (completesAs_mul rd rs1 rs2 s)
  · rintro (rfl | rfl)
    · exact (congrArg reduce (zero_clmul b)).trans reduce_zero
    · exact (congrArg reduce (clmul_zero a)).trans reduce_zero
  · rintro rfl
    exact (congrArg reduce (one_clmul b)).trans (reduce_toNat b)

end Sys2Proof.Machine

namespace Sys2Proof.Machine

open Polynomial

/-! ## The degree of a polynomial (rule R6) -/

/-- A polynomial of degree n or more is a number of 2^n or more. -/
theorem le_deg_iff {p : Poly} {n : Nat} : (n : Int) ≤ deg p ↔ 2 ^ n ≤ p := by
  rcases eq_or_ne p 0 with rfl | nonzero
  · have nonnegative : ¬ (n : Int) ≤ -1 := by omega
    simp [deg, nonnegative]
  · rw [deg, if_neg nonzero, Int.ofNat_le, Nat.le_log2 nonzero]

/-! ## The spread and SQR (rules R67 to R69) -/

/-- Coefficient i of `a` stands at position 2i of the spread, and the odd positions are clear (rule R67): over GF(2) the
square is the polynomial in X². -/
theorem testBit_spread (a : Elem) (k : Nat) : (spread a).testBit k = (decide (2 ∣ k) && a.toNat.testBit (k / 2)) := by
  apply bitCoeff_injective
  rw [← coeff_polynomialOf, polynomialOf_spread, ← ZMod.expand_card, coeff_expand two_pos, coeff_polynomialOf]
  by_cases even : 2 ∣ k <;> simp [even]

/-- The spread doubles the degree (rules R67, R68). -/
theorem spread_lt_iff {a : Elem} {m : Nat} : spread a < 2 ^ m ↔ a.toNat < 2 ^ ((m + 1) / 2) := by
  constructor <;> refine fun small => Nat.lt_pow_two_of_testBit _ fun i hi => ?_
  · have clear : (spread a).testBit (2 * i) = false :=
      Nat.testBit_lt_two_pow (small.trans_le (Nat.pow_le_pow_right two_pos (by omega)))
    simpa [testBit_spread] using clear
  · rw [testBit_spread, Bool.and_eq_false_imp, decide_eq_true_iff]
    intro even
    exact Nat.testBit_lt_two_pow (small.trans_le (Nat.pow_le_pow_right two_pos (by omega)))

/-- The spread is additive, as squaring is over GF(2) (rule R69). -/
theorem spread_xor (a b : Elem) : spread (a ^^^ b) = spread a ^^^ spread b := by
  apply polynomialOf_injective
  simp only [polynomialOf_spread, polynomialOf_xor, BitVec.toNat_xor, CharTwo.add_sq]

/-- SQR answers the state with the field square in F[rd], up to the accumulator (rule R68). -/
theorem completesAs_sqr (rd rs1 : Reg) (s : State) :
    CompletesAs (.sqr rd rs1) (s.writeF rd (fsqr (s.readF rs1))).complete s := ⟨_, rfl, rfl⟩

/-- The one state a command that completes with `v` in F[rd] answers holds `v` in F[rd]. -/
theorem readF_of_completesInF {i : Instr} {rd : Reg} {v : Elem} {s t : State} (h : CompletesInF i rd v s)
    (ht : exec i s = .next t) : t.readF rd = v := by
  obtain ⟨u, hu, value, -, -⟩ := h
  cases hu.symm.trans ht
  exact value

/-! ## The obligations on squaring -/

/-- Settles O34: the coefficients and the degree of the spread; SQR's row gives its words, its meaning is one write of the
field square. Up to degree 179 the spread has degree at most 358, where reduction is the identity. -/
theorem sqrIsTheReducedSpread : Obligations.SqrIsTheReducedSpread := by
  refine ⟨fun a i _ => ⟨?_, ?_⟩, fun a => spread_lt_iff.mpr a.isLt,
    encodedAs_of_mem_rows (fmt := .ds) (by simp [rows]), by decide, fun rd rs1 s => ?_, by decide +kernel, by decide +kernel, fun a low => ?_, fun a high => ?_,
    by decide +kernel⟩
  · simp [testBit_spread, BitVec.testBit_toNat]
  · have odd : ¬ 2 ∣ 2 * i + 1 := by omega
    simp [testBit_spread, odd]
  · rw [← fsqr_eq]
    exact completesInF_of_completesAs (completesAs_sqr rd rs1 s)
  · have below : ¬ ((180 : Nat) : Int) ≤ deg a.toNat := by omega
    exact toNat_reduce_of_lt (spread_lt_iff.mpr (not_le.mp (le_deg_iff.not.mp below)))
  · exact not_lt.mp (spread_lt_iff.not.mpr (not_lt.mpr (le_deg_iff.mp high)))

/-- Settles O35: the spread is the carry-less square, so what O34 and O32 say SQR and MUL leave in F[rd] is the same; the
spread and the reduction are both additive. -/
theorem sqrAgreesWithMul : Obligations.SqrAgreesWithMul := by
  refine ⟨fun a => by rw [clmul_self], fun a => (clmul_self a).symm, fun rd rs1 s t u sqr mul => ?_, fun a b => ?_⟩
  · obtain ⟨-, -, -, -, sqrCompletes, -⟩ := sqrIsTheReducedSpread
    obtain ⟨-, -, mulCompletes, -⟩ := mulIsTheReducedProduct
    rw [readF_of_completesInF (sqrCompletes rd rs1 s) sqr, readF_of_completesInF (mulCompletes rd rs1 rs1 s) mul,
      clmul_self]
  · rw [fsqr_eq, fsqr_eq, fsqr_eq, spread_xor, reduce_xor]

end Sys2Proof.Machine

namespace Sys2Proof.Machine

/-! ## The power and square-and-multiply (rules R70, R71) -/

/-- The field square is the square of classes (rule R69). -/
@[simp] theorem residue_fsqr (a : Elem) : residue (fsqr a).toNat = residue a.toNat ^ 2 := by
  rw [fsqr_eq, ← clmul_self, ← fmul_eq, residue_fmul, sq]

/-- The power by repeated multiplication is the power of classes (rule R70). -/
@[simp] theorem residue_fpow (a : Elem) (e : Nat) : residue (fpow a e).toNat = residue a.toNat ^ e := by
  induction e with
  | zero => exact residue_one
  | succ e ih => rw [fpow, residue_fmul, ih, pow_succ]

/-- The n iterations that are left square the running result n times and put in the power by the low n bits of the
exponent (rule R71). -/
theorem residue_powLoop (a : Elem) (e n : Nat) (r : Elem) :
    residue (powLoop a e n r).toNat = residue r.toNat ^ 2 ^ n * residue a.toNat ^ (e % 2 ^ n) := by
  induction n generalizing r with
  | zero => simp [powLoop, Nat.mod_one]
  | succ n ih =>
    rw [powLoop_succ, ih, Nat.mod_pow_succ, ← Nat.toNat_testBit, Nat.pow_succ', pow_mul, pow_add]
    cases e.testBit n
    · simp
    · simp [mul_pow, mul_assoc, mul_comm, mul_left_comm]

/-- Square-and-multiply computes the power for every width that holds the exponent (rule R71). -/
theorem powCore_eq_fpow (a : Elem) {e width : Nat} (he : e < 2 ^ width) : powCore a e width = fpow a e := by
  apply eq_of_residue_toNat_eq
  rw [powCore, residue_powLoop, Nat.mod_eq_of_lt he, residue_fpow]
  simp

/-- POWX answers the state with the power by X in F[rd], up to the datapath (rule R72). -/
theorem completesAs_powx (rd rs1 : Reg) (s : State) :
    CompletesAs (.powx rd rs1) (s.writeF rd (powCore (s.readF rs1) s.x.toNat 64)).complete s := ⟨_, rfl, rfl⟩

/-- POWF answers the state with the power by F[rs2] in F[rd], up to the datapath (rule R73). -/
theorem completesAs_powf (rd rs1 rs2 : Reg) (s : State) :
    CompletesAs (.powf rd rs1 rs2) (s.writeF rd (powCore (s.readF rs1) (s.readF rs2).toNat 359)).complete s :=
  ⟨_, rfl, rfl⟩

/-- Settles O36: the loop's result is in the class of the power. -/
theorem squareAndMultiplyComputesThePower : Obligations.SquareAndMultiplyComputesThePower :=
  fun a _ _ => powCore_eq_fpow a

/-- Settles O37: the rows of POWX and POWF give their words, each meaning is one write of `powCore`'s result. -/
theorem powxAndPowfComplete : Obligations.PowxAndPowfComplete :=
  ⟨encodedAs_of_mem_rows (fmt := .ds) (by simp [rows]), encodedAs_of_mem_rows (fmt := .dst) (by simp [rows]),
    fun rd rs1 s => completesInF_of_completesAs (completesAs_powx rd rs1 s),
    fun rd rs1 rs2 s => completesInF_of_completesAs (completesAs_powf rd rs1 rs2 s)⟩

end Sys2Proof.Machine

namespace Sys2Proof.Machine

open Polynomial

/-! ## The reduction polynomial over GF(2) (rule R2) -/

/-- The reduction polynomial of rules R2 and R5. -/
theorem polynomialOf_fPoly : polynomialOf fPoly = X ^ 359 + X ^ 18 + X ^ 4 + X ^ 2 + 1 := by
  have bits : fPoly = 1 <<< 359 ^^^ 1 <<< 18 ^^^ 1 <<< 4 ^^^ 1 <<< 2 ^^^ 1 := by decide +kernel
  rw [bits]
  simp only [polynomialOf_xor, polynomialOf_shiftLeft, polynomialOf_one, one_mul]

theorem natDegree_polynomialOf_fPoly : (polynomialOf fPoly).natDegree = 359 := by
  rw [polynomialOf_fPoly]
  compute_degree!

/-- f(0) = f(1) = 1: f has an odd number of terms, one of them constant. -/
theorem not_isRoot_polynomialOf_fPoly (a : ZMod 2) : ¬ (polynomialOf fPoly).IsRoot a := by
  rw [IsRoot, polynomialOf_fPoly]
  have bit : a = 0 ∨ a = 1 := by revert a; decide
  rcases bit with rfl | rfl
  · simp
  · simp only [eval_add, eval_pow, eval_X, eval_one, one_pow]
    decide

/-! ## The field square by operations on whole numbers

The loops of `spread` and `reduce` go bit by bit, too slow for a proof that evaluates hundreds of squarings. `quickSquare`
is the same function (`quickSquare_eq_fsqr`). -/

/-- The coefficients moved to twice their places: for block lengths 2^(n−1) down to 1, every second block moves up by one
length, and the mask keeps the blocks at even places. -/
def interleave : Nat → Poly → Poly
  | 0, p => p
  | n + 1, p => strict ((p ^^^ p <<< 2 ^ n) &&& (2 ^ 1024 - 1) / (2 ^ 2 ^ n + 1)) (interleave n)

/-- What stands at 359 and above replaced by its product with x^18 + x^4 + x^2 + 1, the class of x^359. -/
def foldHigh (p : Poly) : Poly :=
  strict (p >>> 359) fun high => p % 2 ^ 359 ^^^ (high <<< 18 ^^^ high <<< 4 ^^^ high <<< 2 ^^^ high)

/-- The field square: the spread, folded twice. -/
def quickSquare (a : Elem) : Elem :=
  BitVec.ofNat 359 (strict (interleave 9 a.toNat) fun p => strict (foldHigh p) foldHigh)

theorem interleave_xor (n : Nat) (p q : Poly) : interleave n (p ^^^ q) = interleave n p ^^^ interleave n q := by
  induction n generalizing p q with
  | zero => rfl
  | succ n ih =>
    simp only [interleave, strict_eq, ← ih, Nat.shiftLeft_xor_distrib, ← Nat.and_xor_distrib_right]
    congr 2
    ac_rfl

@[simp] theorem interleave_zero (n : Nat) : interleave n 0 = 0 := by
  simpa using interleave_xor n 0 0

/-- Every coefficient is moved to twice its place. The kernel's tables are slow on many numbers with the same low bits, so
the check adds n to 1 <<< n, and linearity takes it away again. -/
theorem interleave_one_shiftLeft : ∀ n < 359, interleave 9 (1 <<< n) = 1 <<< (2 * n) := by
  have check : ∀ n < 359, interleave 9 (1 <<< n ^^^ n) = 1 <<< (2 * n) ^^^ interleave 9 n := by decide +kernel
  intro n hn
  exact Nat.xor_left_inj.mp ((interleave_xor 9 _ n).symm.trans (check n hn))

/-- On an element the moves are the spread (rule R67): both are linear and agree on the monomials. -/
theorem interleave_toNat (a : Elem) : interleave 9 a.toNat = spread a := by
  have low : ∀ n ≤ 359, interleave 9 (a.toNat % 2 ^ n) = spreadUpTo a.toNat n := by
    intro n hn
    induction n with
    | zero => rw [pow_zero, Nat.mod_one, interleave_zero, spreadUpTo]
    | succ n ih =>
      rw [mod_two_pow_succ_eq_xor, interleave_xor, ih (by omega), spreadUpTo]
      split
      · rw [interleave_one_shiftLeft n hn]
      · rw [interleave_zero]
  simpa only [spread, Nat.mod_eq_of_lt a.isLt] using low 359 le_rfl

/-- A fold stays in the class: it adds the product of the high part and f. -/
@[simp] theorem residue_foldHigh (p : Poly) : residue (foldHigh p) = residue p := by
  have split : p = p % 2 ^ 359 ^^^ (p >>> 359) <<< 359 := by
    refine Nat.eq_of_testBit_eq fun i => ?_
    rcases lt_or_ge i 359 with low | high
    · simp [low, low.not_ge]
    · simp [high, high.not_gt]
  rw [residue_eq_iff, polynomialOf_fPoly]
  have folded : polynomialOf p = polynomialOf (p % 2 ^ 359) + polynomialOf (p >>> 359) * X ^ 359 := by
    rw [← polynomialOf_shiftLeft, ← polynomialOf_xor, ← split]
  refine ⟨polynomialOf (p >>> 359), ?_⟩
  simp only [foldHigh, strict_eq, polynomialOf_xor, polynomialOf_shiftLeft, folded]
  linear_combination CharTwo.add_self_eq_zero (polynomialOf (p % 2 ^ 359))

/-- A fold takes a degree below 359 + m to one below m + 18, or below 359. -/
theorem foldHigh_lt {p : Poly} {m n : Nat} (hp : p < 2 ^ (359 + m)) (hm : m + 18 ≤ n) (hn : 359 ≤ n) :
    foldHigh p < 2 ^ n := by
  have low : p % 2 ^ 359 < 2 ^ n := (Nat.mod_lt _ (Nat.two_pow_pos 359)).trans_le (Nat.pow_le_pow_right two_pos hn)
  have high : p >>> 359 < 2 ^ m := by
    rwa [Nat.shiftRight_eq_div_pow, Nat.div_lt_iff_lt_mul (Nat.two_pow_pos 359), ← Nat.pow_add, Nat.add_comm]
  have shifted : ∀ i ≤ 18, (p >>> 359) <<< i < 2 ^ n := fun i hi =>
    (Nat.shiftLeft_lt high).trans_le (Nat.pow_le_pow_right two_pos ((Nat.add_le_add_left hi m).trans hm))
  rw [foldHigh, strict_eq]
  exact Nat.xor_lt_two_pow low (Nat.xor_lt_two_pow (Nat.xor_lt_two_pow (Nat.xor_lt_two_pow (shifted 18 le_rfl)
    (shifted 4 (by decide))) (shifted 2 (by decide))) (shifted 0 (by decide)))

/-- The folds are the reduction sweep, and so the few steps are the field square (rules R63, R68). -/
theorem quickSquare_eq_fsqr (a : Elem) : quickSquare a = fsqr a := by
  have spreadSmall : spread a < 2 ^ 717 := spread_lt_iff.mpr a.isLt
  have small : foldHigh (foldHigh (spread a)) < 2 ^ 359 :=
    foldHigh_lt (m := 17) (foldHigh_lt (m := 358) spreadSmall le_rfl (by decide)) (by decide) le_rfl
  apply eq_of_residue_toNat_eq
  rw [quickSquare, interleave_toNat, strict_eq, strict_eq, BitVec.toNat_ofNat, Nat.mod_eq_of_lt small, residue_foldHigh,
    residue_foldHigh, fsqr_eq, residue_reduce spreadSmall]

end Sys2Proof.Machine

namespace Sys2Proof.Machine

open Polynomial

/-! ## The reduction polynomial is irreducible (rule R2)

Rabin's test: x^(2^359) = x modulo f, 359 is prime, and f has no root. -/

/-- Rabin's test for a prime degree: an irreducible factor's degree divides n, and it is not 1 without a root. -/
theorem irreducible_of_dvd_X_pow_two_pow_sub_X {f : (ZMod 2)[X]} {n : Nat} (prime : n.Prime) (degree : f.natDegree = n)
    (dvd : f ∣ X ^ 2 ^ n - X) (noRoot : ∀ a, ¬ f.IsRoot a) : Irreducible f := by
  have positive : 0 < f.natDegree := degree ▸ prime.pos
  obtain ⟨g, irreducible, factor⟩ := exists_irreducible_of_natDegree_pos positive
  have degreeDvd : g.natDegree ∣ n :=
    irreducible.natDegree_dvd_of_dvd_X_pow_card_pow_sub_X (by simpa using factor.trans dvd)
  rcases prime.eq_one_or_self_of_dvd _ degreeDvd with linear | full
  · obtain ⟨a, root⟩ := exists_root_of_degree_eq_one ((degree_eq_iff_natDegree_eq_of_pos one_pos).mpr linear)
    exact absurd (root.dvd factor) (noRoot a)
  · exact (associated_of_dvd_of_natDegree_le factor (ne_zero_of_natDegree_gt positive)
      (degree.trans full.symm).le).irreducible irreducible

/-- The class of x. -/
theorem residue_two : residue 2 = AdjoinRoot.root (polynomialOf fPoly) := by
  have x : polynomialOf 2 = X := by simpa using polynomialOf_shiftLeft 1 1
  rw [residue, x, AdjoinRoot.mk_X]

/-- n squarings are the power by 2^n. -/
theorem residue_iterate_fsqr (a : Elem) (n : Nat) : residue (fsqr^[n] a).toNat = residue a.toNat ^ 2 ^ n := by
  induction n with
  | zero => simp
  | succ n ih => rw [Function.iterate_succ_apply', residue_fsqr, ih, ← pow_mul, pow_succ]

/-- 359 squarings take x back to x. -/
theorem iterate_fsqr_two : fsqr^[359] 2 = 2 := by
  have check : quickSquare^[359] 2 = 2 := by decide +kernel
  rwa [funext quickSquare_eq_fsqr] at check

theorem polynomialOf_fPoly_dvd : polynomialOf fPoly ∣ X ^ 2 ^ 359 - X := by
  have fixed := residue_iterate_fsqr 2 359
  rw [iterate_fsqr_two] at fixed
  rw [← AdjoinRoot.mk_eq_zero, map_sub, map_pow, AdjoinRoot.mk_X, ← residue_two, sub_eq_zero]
  exact fixed.symm

/-- The residue classes modulo f are a field (rule R2). -/
theorem irreducible_polynomialOf_fPoly : Irreducible (polynomialOf fPoly) :=
  irreducible_of_dvd_X_pow_two_pow_sub_X (by norm_num) natDegree_polynomialOf_fPoly polynomialOf_fPoly_dvd
    not_isRoot_polynomialOf_fPoly

/-! ## The order of the multiplicative group (rule R74) -/

theorem residue_toNat_eq_zero_iff {a : Elem} : residue a.toNat = 0 ↔ a = 0 :=
  ⟨fun h => eq_of_residue_toNat_eq (h.trans residue_zero.symm), fun h => h ▸ residue_zero⟩

theorem natCard_residueClasses : Nat.card (AdjoinRoot (polynomialOf fPoly)) = 2 ^ 359 := by
  have nonzero := irreducible_polynomialOf_fPoly.ne_zero
  have := (AdjoinRoot.powerBasis nonzero).finite
  rw [Module.natCard_eq_pow_finrank (K := ZMod 2), (AdjoinRoot.powerBasis nonzero).finrank, AdjoinRoot.powerBasis_dim,
    natDegree_polynomialOf_fPoly, Nat.card_zmod]

/-- The nonzero classes are a group of 2^359 − 1 elements. -/
theorem residue_pow_order {a : Elem} (nonzero : a ≠ 0) : residue a.toNat ^ (2 ^ 359 - 1) = 1 := by
  have := Fact.mk irreducible_polynomialOf_fPoly
  have unit : Units.mk0 (residue a.toNat) (residue_toNat_eq_zero_iff.not.mpr nonzero) ^ (2 ^ 359 - 1) = 1 := by
    rw [← natCard_residueClasses, ← Nat.card_units, pow_card_eq_one']
  simpa using congrArg Units.val unit

/-- A nonzero element's exponents count modulo 2^359 − 1. -/
theorem fpow_mod_order {a : Elem} (nonzero : a ≠ 0) (e : Nat) : fpow a e = fpow a (e % (2 ^ 359 - 1)) := by
  apply eq_of_residue_toNat_eq
  rw [residue_fpow, residue_fpow, ← pow_eq_pow_mod e (residue_pow_order nonzero)]

theorem fpow_order {a : Elem} (nonzero : a ≠ 0) : fpow a (2 ^ 359 - 1) = 1 := by
  rw [fpow_mod_order nonzero, Nat.mod_self, fpow]

theorem fmul_fpow_fpow (a : Elem) (i j : Nat) : fmul (fpow a i) (fpow a j) = fpow a (i + j) := by
  apply eq_of_residue_toNat_eq
  rw [residue_fmul, residue_fpow, residue_fpow, residue_fpow, pow_add]

/-- POWX and POWF with one exponent write one value (rule R74). -/
theorem readF_powx_eq_powf {rd rs1 rs2 : Reg} {s t u : State} (same : s.x.toNat = (s.readF rs2).toNat)
    (powx : exec (.powx rd rs1) s = .next t) (powf : exec (.powf rd rs1 rs2) s = .next u) :
    t.readF rd = u.readF rd := by
  rw [readF_of_completesInF (completesInF_of_completesAs (completesAs_powx rd rs1 s)) powx,
    readF_of_completesInF (completesInF_of_completesAs (completesAs_powf rd rs1 rs2 s)) powf,
    powCore_eq_fpow _ s.x.isLt, powCore_eq_fpow _ (s.readF rs2).isLt, same]

/-- Settles O38: the small powers and associativity are identities of the ring of residue classes; f is irreducible, so its
nonzero classes are a group of 2^359 − 1 elements. -/
theorem powerLaws : Obligations.PowerLaws := by
  refine ⟨fun a => ⟨rfl, ?_, ?_, ?_, ?_, ?_⟩, fun a b c => ?_, fmul_fpow_fpow,
    fun a nonzero => ⟨fpow_order nonzero, fpow_mod_order nonzero⟩, fun _ _ _ _ _ _ => readF_powx_eq_powf⟩ <;>
    apply eq_of_residue_toNat_eq
  · simp
  · simp
  · simp [sq]
  · simp only [residue_fmul, residue_fpow]
    ring
  · simp only [residue_fmul, residue_fpow]
    ring
  · simp [mul_assoc]

end Sys2Proof.Machine

namespace Sys2Proof.Machine

open Polynomial

/-! ## Polynomial long division (rule R76) -/

theorem deg_zero_lt {p : Poly} (nonzero : p ≠ 0) : deg 0 < deg p := by
  rw [deg_zero, deg_of_ne_zero nonzero]
  omega

/-- A degree below that of a polynomial of degree at most n is a degree below n. -/
theorem lt_two_pow_of_deg_lt {p q : Poly} {n : Nat} (lower : deg p < deg q) (hq : q < 2 ^ (n + 1)) : p < 2 ^ n := by
  by_contra large
  have reaches : (n : Int) ≤ deg p := le_deg_iff.mpr (not_lt.mp large)
  have beyond : ((n + 1 : Nat) : Int) ≤ deg q := by omega
  exact absurd hq (not_lt.mpr (le_deg_iff.mp beyond))

/-- A polynomial of lower degree is a smaller number. -/
theorem lt_of_deg_lt {p q : Poly} (lower : deg p < deg q) : p < q := by
  have nonzero : q ≠ 0 := by
    rintro rfl
    rcases eq_or_ne p 0 with rfl | hp
    · exact lower.false
    · exact lower.asymm (deg_zero_lt hp)
  exact (lt_two_pow_of_deg_lt lower Nat.lt_log2_self).trans_le (Nat.log2_self_le nonzero)

/-- The sum of two polynomials of degree m has a lower degree: their leading coefficients cancel. -/
theorem xor_lt_of_testBit {p q : Poly} {m : Nat} (hp : p < 2 ^ (m + 1)) (hq : q < 2 ^ (m + 1))
    (pLead : p.testBit m = true) (qLead : q.testBit m = true) : p ^^^ q < 2 ^ m := by
  refine Nat.lt_pow_two_of_testBit _ fun i hi => ?_
  rcases hi.lt_or_eq with above | rfl
  · exact Nat.testBit_lt_two_pow ((Nat.xor_lt_two_pow hp hq).trans_le (Nat.pow_le_pow_right two_pos above))
  · simp [pLead, qLead]

/-- A step of the division clears the leading coefficient of what is left of the dividend (rule R76). -/
theorem xor_shiftLeft_lt {n d : Poly} (hn : n ≠ 0) (hd : d ≠ 0) (le : deg d ≤ deg n) :
    n ^^^ d <<< (deg n - deg d).toNat < 2 ^ Nat.log2 n := by
  rw [deg_of_ne_zero hn, deg_of_ne_zero hd] at le ⊢
  obtain ⟨s, degrees⟩ := Nat.exists_eq_add_of_le (Int.ofNat_le.mp le)
  have shift : ((Nat.log2 n : Int) - Nat.log2 d).toNat = s := by omega
  rw [shift]
  refine xor_lt_of_testBit Nat.lt_log2_self ?_ (Nat.testBit_log2 hn) ?_
  · rw [degrees, Nat.add_right_comm]
    exact Nat.shiftLeft_lt Nat.lt_log2_self
  · simp [degrees, Nat.testBit_log2 hd]

/-- A step adds d·x^s to the product of divisor and quotient and to what is left of the dividend: their sum stays. -/
theorem polynomialOf_pdivLoop (d : Poly) (fuel : Nat) (q n : Poly) :
    polynomialOf d * polynomialOf (pdivLoop d fuel q n).1 + polynomialOf (pdivLoop d fuel q n).2 =
      polynomialOf d * polynomialOf q + polynomialOf n := by
  induction fuel generalizing q n with
  | zero => rfl
  | succ fuel ih =>
    rw [pdivLoop_succ]
    split
    · rw [ih]
      simp only [polynomialOf_xor, polynomialOf_shiftLeft, polynomialOf_one]
      linear_combination CharTwo.add_self_eq_zero (polynomialOf d * X ^ (deg n - deg d).toNat)
    · rfl

/-- Each step lowers the degree of what is left of the dividend, so as many steps as it has coefficients are enough. -/
theorem deg_pdivLoop_lt {d : Poly} (hd : d ≠ 0) {fuel : Nat} (q : Poly) {n : Poly} (hn : n < 2 ^ fuel) :
    deg (pdivLoop d fuel q n).2 < deg d := by
  induction fuel generalizing q n with
  | zero =>
    cases Nat.lt_one_iff.mp hn
    exact deg_zero_lt hd
  | succ fuel ih =>
    rw [pdivLoop_succ]
    split
    · next goesOn =>
      obtain ⟨nonzero, le⟩ := goesOn
      have low : Nat.log2 n ≤ fuel := Nat.le_of_lt_succ ((Nat.log2_lt nonzero).mpr hn)
      exact ih _ ((xor_shiftLeft_lt nonzero hd le).trans_le (Nat.pow_le_pow_right two_pos low))
    · next ends =>
      rcases eq_or_ne n 0 with rfl | nonzero
      · exact deg_zero_lt hd
      · exact not_le.mp fun le => ends ⟨nonzero, le⟩

/-- The division's equation n = q·d ⊕ r, in (ZMod 2)[X] (rule R76). -/
theorem polynomialOf_pdivmod (n d : Poly) :
    polynomialOf d * polynomialOf (pdivmod n d).1 + polynomialOf (pdivmod n d).2 = polynomialOf n := by
  rw [pdivmod, polynomialOf_pdivLoop, polynomialOf_zero, mul_zero, zero_add]

theorem polynomialOf_pdivmod_snd (n d : Poly) :
    polynomialOf (pdivmod n d).2 = polynomialOf n + polynomialOf d * polynomialOf (pdivmod n d).1 := by
  rw [← polynomialOf_pdivmod n d, add_right_comm, CharTwo.add_self_eq_zero, zero_add]

theorem deg_pdivmod_lt (n : Poly) {d : Poly} (hd : d ≠ 0) : deg (pdivmod n d).2 < deg d :=
  deg_pdivLoop_lt hd 0 Nat.lt_log2_self

/-- The quotient by a polynomial of degree 1 or more has a lower degree than the dividend (rule R78 item 4). -/
theorem pdivmod_fst_lt {n d : Poly} {m : Nat} (hn : n < 2 ^ (m + 1)) (hd : 2 ≤ d) (small : d < 2 ^ (m + 1)) :
    (pdivmod n d).1 < 2 ^ m := by
  have remainder : (pdivmod n d).2 < 2 ^ (m + 1) :=
    (lt_of_deg_lt (deg_pdivmod_lt n (Nat.ne_zero_of_lt hd))).trans small
  have product : polynomialOf d * polynomialOf (pdivmod n d).1 = polynomialOf (n ^^^ (pdivmod n d).2) := by
    rw [polynomialOf_xor, polynomialOf_pdivmod_snd, ← add_assoc, CharTwo.add_self_eq_zero, zero_add]
  have productDegree : (polynomialOf d * polynomialOf (pdivmod n d).1).degree < (m + 1 : Nat) :=
    product ▸ degree_polynomialOf_lt_iff.mpr (Nat.xor_lt_two_pow hn remainder)
  have divisorDegree : ((1 : Nat) : WithBot Nat) ≤ (polynomialOf d).degree :=
    not_lt.mp (degree_polynomialOf_lt_iff.not.mpr (not_lt.mpr hd))
  by_contra large
  have quotientDegree : (m : WithBot Nat) ≤ (polynomialOf (pdivmod n d).1).degree :=
    not_lt.mp (degree_polynomialOf_lt_iff.not.mpr large)
  rw [degree_mul, Nat.add_comm, Nat.cast_add] at productDegree
  exact absurd productDegree (not_lt.mpr (add_le_add divisorDegree quotientDegree))

/-- Settles O41: the loop keeps the sum of product and remainder, and runs until the degree is low enough. -/
theorem longDivision : Obligations.LongDivision := by
  refine fun n d hd => ⟨polynomialOf_injective ?_, deg_pdivmod_lt n hd⟩
  rw [polynomialOf_xor, polynomialOf_polyMul, polynomialOf_pdivmod]

end Sys2Proof.Machine

namespace Sys2Proof.Machine

/-! ## The Euclidean inverter (rules R77, R78)

The two remainders stay coprime, and a polynomial coprime to 0 is 1: the loop reaches 1 before it reaches 0. -/

/-- What holds at the top of every iteration of rule R77's loop (rule R78 items 1 to 4): the remainders are coprime, the
second is the smaller, and each is its cofactor times `a` modulo f. -/
structure EuclidInvariant (a : Elem) (r0 r1 : Poly) (t0 t1 : Elem) : Prop where
  coprime : IsCoprime (polynomialOf r0) (polynomialOf r1)
  nonzero : r1 ≠ 0
  smaller : r1 < r0
  bounded : r0 < 2 ^ 360
  cofactor0 : residue t0.toNat * residue a.toNat = residue r0
  cofactor1 : residue t1.toNat * residue a.toNat = residue r1

/-- f is irreducible, so coprime to every nonzero element (rule R78 item 3). -/
theorem isCoprime_fPoly {a : Elem} (nonzero : a ≠ 0) : IsCoprime (polynomialOf fPoly) (polynomialOf a.toNat) := by
  refine irreducible_polynomialOf_fPoly.coprime_iff_not_dvd.mpr fun dvd => nonzero ?_
  exact residue_toNat_eq_zero_iff.mp (AdjoinRoot.mk_eq_zero.mpr dvd)

theorem euclidInvariant_init {a : Elem} (nonzero : a ≠ 0) : EuclidInvariant a fPoly a.toNat 0 1 where
  coprime := isCoprime_fPoly nonzero
  nonzero := BitVec.toNat_ne_iff_ne.mpr nonzero
  smaller := a.isLt.trans (by decide +kernel)
  bounded := by decide +kernel
  cofactor0 := by simpa using (residue_fPoly_shiftLeft 0).symm
  cofactor1 := by simp

/-- The unit of GF(2)[x] is 1. -/
theorem eq_one_of_isUnit_polynomialOf {p : Poly} (unit : IsUnit (polynomialOf p)) : p = 1 := by
  have constant : p < 2 ^ 1 := degree_polynomialOf_lt_iff.mp (by simp [Polynomial.degree_eq_zero_of_isUnit unit])
  have nonzero : p ≠ 0 := by
    rintro rfl
    simp at unit
  exact (Nat.le_of_lt_succ constant).antisymm (Nat.one_le_iff_ne_zero.mpr nonzero)

/-- The classes of a division: the remainder is dividend plus divisor times quotient. -/
theorem residue_pdivmod_snd (n d : Poly) :
    residue (pdivmod n d).2 = residue n + residue d * residue (pdivmod n d).1 := by
  simp [residue, polynomialOf_pdivmod_snd]

/-- An iteration keeps the invariant: division leaves a remainder coprime to the divisor, so nonzero unless the divisor
is 1, and the new cofactor is the same combination of the old ones as the remainder is of the old remainders. -/
theorem EuclidInvariant.step {a : Elem} {r0 r1 : Poly} {t0 t1 : Elem} (h : EuclidInvariant a r0 r1 t0 t1)
    (goesOn : r1 ≠ 1) :
    EuclidInvariant a r1 (pdivmod r0 r1).2 t1 (t0 ^^^ fmul (BitVec.ofNat 359 (pdivmod r0 r1).1) t1) := by
  obtain ⟨coprime, nonzero, smaller, bounded, cofactor0, cofactor1⟩ := h
  have coprimeNext : IsCoprime (polynomialOf r1) (polynomialOf (pdivmod r0 r1).2) := by
    rw [← polynomialOf_pdivmod r0 r1, IsCoprime.mul_add_left_left_iff] at coprime
    exact coprime.symm
  have quotient : (pdivmod r0 r1).1 < 2 ^ 359 :=
    pdivmod_fst_lt bounded ((Nat.two_le_iff _).mpr ⟨nonzero, goesOn⟩) (smaller.trans bounded)
  refine ⟨coprimeNext, fun zero => goesOn ?_, lt_of_deg_lt (deg_pdivmod_lt r0 nonzero), smaller.trans bounded, cofactor1,
    ?_⟩
  · rw [zero, polynomialOf_zero, isCoprime_zero_right] at coprimeNext
    exact eq_one_of_isUnit_polynomialOf coprimeNext
  · rw [BitVec.toNat_xor, residue_xor, residue_fmul, BitVec.toNat_ofNat, Nat.mod_eq_of_lt quotient, residue_pdivmod_snd]
    linear_combination cofactor0 + residue (pdivmod r0 r1).1 * cofactor1

/-- Each iteration lowers the degree of r1, so as many as that degree reach 1, whose cofactor is the inverse (rule R78
items 2 and 5). -/
theorem EuclidInvariant.residue_invLoop {a : Elem} {r0 r1 : Poly} {t0 t1 : Elem} (h : EuclidInvariant a r0 r1 t0 t1)
    {fuel : Nat} (enough : r1 < 2 ^ (fuel + 1)) :
    residue (invLoop fuel r0 r1 t0 t1).toNat * residue a.toNat = 1 := by
  induction fuel generalizing r0 r1 t0 t1 with
  | zero =>
    have one : r1 = 1 := (Nat.le_of_lt_succ enough).antisymm (Nat.one_le_iff_ne_zero.mpr h.nonzero)
    rw [invLoop, h.cofactor1, one, residue_one]
  | succ fuel ih =>
    rw [invLoop_succ]
    split
    · next one => rw [h.cofactor1, one, residue_one]
    · next goesOn => exact ih (h.step goesOn) (lt_two_pow_of_deg_lt (deg_pdivmod_lt r0 h.nonzero) enough)

theorem residue_invEuclid {a : Elem} (nonzero : a ≠ 0) : residue (invEuclid a).toNat * residue a.toNat = 1 :=
  (euclidInvariant_init nonzero).residue_invLoop a.isLt

end Sys2Proof.Machine

namespace Sys2Proof.Machine

/-! ## The inverse (rules R75, R79, R80) -/

theorem fmul_invEuclid {a : Elem} (nonzero : a ≠ 0) : fmul a (invEuclid a) = 1 := by
  apply eq_of_residue_toNat_eq
  rw [residue_fmul, mul_comm, residue_invEuclid nonzero]
  exact residue_one.symm

theorem zero_fmul (a : Elem) : fmul 0 a = 0 := by
  apply eq_of_residue_toNat_eq
  simp

theorem ne_zero_of_fmul_eq_one {a c : Elem} (h : fmul a c = 1) : a ≠ 0 := by
  rintro rfl
  exact absurd ((zero_fmul c).symm.trans h) (by decide)

/-- The classes are a commutative ring, where an element has at most one inverse (rule R80). -/
theorem eq_invEuclid_of_fmul_eq_one {a c : Elem} (h : fmul a c = 1) : c = invEuclid a := by
  have inverse : residue a.toNat * residue c.toNat = 1 := by
    rw [← residue_fmul, h]
    exact residue_one
  exact eq_of_residue_toNat_eq (left_inv_eq_right_inv (residue_invEuclid (ne_zero_of_fmul_eq_one h)) inverse).symm

theorem invEuclid_invEuclid {a : Elem} (nonzero : a ≠ 0) : invEuclid (invEuclid a) = a := by
  refine (eq_invEuclid_of_fmul_eq_one ?_).symm
  rw [fmul_eq, clmul_comm, ← fmul_eq, fmul_invEuclid nonzero]

/-- INV of a nonzero element answers the state with its inverse in F[rd], up to the datapath (rule R75). -/
theorem completesAs_inv (rd : Reg) {rs1 : Reg} {s : State} (nonzero : s.readF rs1 ≠ 0) :
    CompletesAs (.inv rd rs1) (s.writeF rd (invEuclid (s.readF rs1))).complete s :=
  ⟨_, exec_inv_of_ne_zero rd nonzero, rfl⟩

/-- Settles O39: INV's row gives its words, its meaning on a nonzero element is one write of the inverse. -/
theorem invOfNonzeroCompletes : Obligations.InvOfNonzeroCompletes :=
  ⟨encodedAs_of_mem_rows (fmt := .ds) (by simp [rows]), by decide,
    fun rd _ _ nonzero => completesInF_of_completesAs (completesAs_inv rd nonzero)⟩

/-- Settles O42: the Euclidean loop ends with the inverse, which is unique in the ring of residue classes. -/
theorem inverseIsUnique : Obligations.InverseIsUnique := by
  refine ⟨fun a nonzero => ⟨?_, fun c h => ?_, invEuclid_invEuclid nonzero, fmul_invEuclid nonzero⟩,
    fun rd rs1 s t nonzero ht => ?_⟩
  · rw [← fmul_eq, fmul_invEuclid nonzero]
  · exact eq_invEuclid_of_fmul_eq_one (by rw [fmul_eq, h])
  · rw [readF_of_completesInF (completesInF_of_completesAs (completesAs_inv rd nonzero)) ht, ← fmul_eq,
      fmul_invEuclid nonzero]

/-- The group of the nonzero classes has order 2^359 − 1, so one factor less than that is the inverse (rule R79). -/
theorem powCore_eq_invEuclid {a : Elem} (nonzero : a ≠ 0) : powCore a (2 ^ 359 - 2) 359 = invEuclid a := by
  refine eq_invEuclid_of_fmul_eq_one (eq_of_residue_toNat_eq ?_)
  rw [powCore_eq_fpow a (by decide +kernel), residue_fmul, residue_fpow, ← pow_succ']
  exact (residue_pow_order nonzero).trans residue_one.symm

/-- The Fermat power of 0 is 0, not an error (rule R79). -/
theorem powCore_zero : powCore 0 (2 ^ 359 - 2) 359 = 0 := by
  apply eq_of_residue_toNat_eq
  rw [powCore_eq_fpow 0 (by decide +kernel), residue_fpow]
  exact residue_zero ▸ zero_pow (by decide +kernel)

/-- Settles O43: POWF writes this power, which is the inverse of every nonzero element and 0 for 0. -/
theorem fermatInverseAgrees : Obligations.FermatInverseAgrees := by
  refine ⟨fun a => powCore_eq_invEuclid, powCore_zero, fun rd rs1 rs2 s t exponent ht => ?_⟩
  rw [readF_of_completesInF (completesInF_of_completesAs (completesAs_powf rd rs1 rs2 s)) ht, exponent]
  split
  · next zero => rw [zero, powCore_zero]
  · next nonzero => exact powCore_eq_invEuclid nonzero

end Sys2Proof.Machine

namespace Sys2Proof.Machine

/-! ## Additive properties of elements (rule R8) -/

/-- Every element is a sum of monomials. -/
theorem xor_induction {P : Elem → Prop} (zero : P 0) (xor : ∀ a b, P a → P b → P (a ^^^ b))
    (monomial : ∀ i < 359, P (BitVec.ofNat 359 (1 <<< i))) (a : Elem) : P a := by
  have low : ∀ n ≤ 359, P (BitVec.ofNat 359 (a.toNat % 2 ^ n)) := by
    intro n hn
    induction n with
    | zero => simpa [Nat.mod_one] using zero
    | succ n ih =>
      rw [mod_two_pow_succ_eq_xor, BitVec.ofNat_xor]
      refine xor _ _ (ih (by omega)) ?_
      split
      · exact monomial n hn
      · exact zero
  simpa using low 359 le_rfl

theorem fsqr_xor (a b : Elem) : fsqr (a ^^^ b) = fsqr a ^^^ fsqr b := by
  obtain ⟨-, -, -, additive⟩ := sqrAgreesWithMul
  exact additive a b

/-! ## The sum of the conjugates is its own square (rule R82 item 1)

Squaring takes each conjugate to the next and the last one back to the first. -/

/-- The square of the last conjugate is the element itself: the nonzero classes are a group of 2^359 − 1 elements. -/
theorem iterate_fsqr (a : Elem) : fsqr^[359] a = a := by
  apply eq_of_residue_toNat_eq
  rw [residue_iterate_fsqr]
  rcases eq_or_ne a 0 with rfl | nonzero
  · exact residue_zero ▸ zero_pow (by decide +kernel)
  · rw [← pow_sub_one_mul (Nat.two_pow_pos 359).ne', residue_pow_order nonzero, one_mul]

/-- The residue classes are a field, where only 0 and 1 are their own squares. -/
theorem eq_zero_or_one_of_fsqr_eq_self {a : Elem} (fixed : fsqr a = a) : a = 0 ∨ a = 1 := by
  have := Fact.mk irreducible_polynomialOf_fPoly
  have idempotent : IsIdempotentElem (residue a.toNat) := by rw [IsIdempotentElem, ← sq, ← residue_fsqr, fixed]
  refine (IsIdempotentElem.iff_eq_zero_or_one.mp idempotent).imp residue_toNat_eq_zero_iff.mp fun one => ?_
  exact eq_of_residue_toNat_eq (one.trans residue_one.symm)

/-- n iterations add n conjugates, `c` being the first. In their sum and its square all cancel but `c` and the conjugate
after the last (rule R81). -/
theorem fsqr_traceLoop_xor (n : Nat) (t c : Elem) :
    fsqr (traceLoop n t c) ^^^ traceLoop n t c = fsqr t ^^^ t ^^^ (c ^^^ fsqr^[n] c) := by
  induction n generalizing t c with
  | zero => simp [traceLoop]
  | succ n ih =>
    rw [traceLoop_succ, ih, fsqr_xor, Function.iterate_succ_apply]
    calc fsqr t ^^^ fsqr c ^^^ (t ^^^ c) ^^^ (fsqr c ^^^ fsqr^[n] (fsqr c))
        = fsqr c ^^^ fsqr c ^^^ (fsqr t ^^^ t ^^^ (c ^^^ fsqr^[n] (fsqr c))) := by ac_rfl
      _ = fsqr t ^^^ t ^^^ (c ^^^ fsqr^[n] (fsqr c)) := by rw [BitVec.xor_self, BitVec.zero_xor]

theorem traceSum_eq_zero_or_one (a : Elem) : traceSum a = 0 ∨ traceSum a = 1 := by
  apply eq_zero_or_one_of_fsqr_eq_self
  have squareOfZero : fsqr 0 = 0 := by decide +kernel
  rw [← BitVec.xor_eq_zero_iff, traceSum, fsqr_traceLoop_xor, iterate_fsqr, squareOfZero]
  simp only [BitVec.xor_self]

/-! ## The sum of the conjugates has the element's parity (rule R82 item 4)

The parity of the four coefficients is additive and the same on an element and its square, so on all conjugates; they are
359, an odd number, so their sum has that parity too. -/

theorem traceParity_xor (a b : Elem) : traceParity (a ^^^ b) = (traceParity a ^^ traceParity b) := by
  simp only [traceParity, xorBits, List.foldr, BitVec.getLsbD_xor, Bool.xor_assoc, Bool.xor_left_comm, Bool.xor_false]

/-- Squaring keeps a monomial's parity. As in `interleave_one_shiftLeft` the check adds i to x^i, which the kernel's tables
like better, and linearity takes it away again. -/
theorem traceParity_fsqr_monomial {i : Nat} (hi : i < 359) :
    traceParity (fsqr (BitVec.ofNat 359 (1 <<< i))) = traceParity (BitVec.ofNat 359 (1 <<< i)) := by
  have check : ∀ i < 359, traceParity (quickSquare (BitVec.ofNat 359 (1 <<< i) ^^^ BitVec.ofNat 359 i)) =
      (traceParity (BitVec.ofNat 359 (1 <<< i)) ^^ traceParity (quickSquare (BitVec.ofNat 359 i))) := by decide +kernel
  have sum := check i hi
  rw [quickSquare_eq_fsqr, quickSquare_eq_fsqr, fsqr_xor, traceParity_xor] at sum
  exact Bool.xor_left_inj.mp sum

/-- Squaring keeps the parity: both sides are additive and agree on the monomials. -/
theorem traceParity_fsqr (a : Elem) : traceParity (fsqr a) = traceParity a := by
  induction a using xor_induction with
  | zero => decide +kernel
  | xor a b iha ihb => rw [fsqr_xor, traceParity_xor, iha, ihb, traceParity_xor]
  | monomial i hi => exact traceParity_fsqr_monomial hi

/-- An odd number of conjugates adds the parity that each of them has, an even number adds nothing. -/
theorem traceParity_traceLoop (n : Nat) (t c : Elem) :
    traceParity (traceLoop n t c) = (traceParity t ^^ (n.bodd && traceParity c)) := by
  induction n generalizing t c with
  | zero => simp [traceLoop]
  | succ n ih =>
    rw [traceLoop_succ, ih, traceParity_fsqr, traceParity_xor, Nat.bodd_succ]
    cases n.bodd <;> simp

theorem traceParity_traceSum (a : Elem) : traceParity (traceSum a) = traceParity a := by
  have zero : traceParity 0 = false := by decide
  have odd : Nat.bodd 359 = true := by decide
  rw [traceSum, traceParity_traceLoop, zero, odd, Bool.true_and, Bool.false_xor]

/-- The parities of 0 and 1 tell them apart, so the sum is known by its parity, the element's. -/
theorem traceSum_eq_ite_traceParity (a : Elem) : traceSum a = if traceParity a = true then 1 else 0 := by
  rw [← traceParity_traceSum a]
  rcases traceSum_eq_zero_or_one a with value | value <;> rw [value] <;> decide

theorem traceSum_eq_one_iff (a : Elem) : traceSum a = 1 ↔ traceParity a = true := by
  rw [traceSum_eq_ite_traceParity]
  cases traceParity a <;> decide

theorem traceParity_monomial_iff (i : Nat) :
    traceParity (BitVec.ofNat 359 (1 <<< i)) = true ↔ i = 0 ∨ i = 341 ∨ i = 355 ∨ i = 357 := by
  by_cases listed : i = 0 ∨ i = 341 ∨ i = 355 ∨ i = 357
  · rcases listed with rfl | rfl | rfl | rfl <;> decide
  · have clear : ∀ k, i ≠ k → (BitVec.ofNat 359 (1 <<< i)).getLsbD k = false := fun k differ => by
      rw [BitVec.getLsbD_ofNat, Nat.one_shiftLeft, Nat.testBit_two_pow_of_ne differ, Bool.and_false]
    obtain ⟨h0, h341, h355, h357⟩ : i ≠ 0 ∧ i ≠ 341 ∧ i ≠ 355 ∧ i ≠ 357 := by omega
    rw [traceParity, clear 0 h0, clear 341 h341, clear 355 h355, clear 357 h357]
    simp [xorBits, listed]

/-! ## The obligations on the trace -/

/-- TRACE answers the state with bit 0 of the sum of the conjugates in S (rule R81). -/
theorem exec_trace (rs1 : Reg) (s : State) :
    exec (.trace rs1) s = .next (s.spendTrace.writeS (scalarOfBool ((traceSum (s.readF rs1)).getLsbD 0))).complete := rfl

/-- Settles O44: TRACE's row gives its words, its meaning is one write of S. -/
theorem traceCompletes : Obligations.TraceCompletes :=
  ⟨encodedAs_of_mem_rows (fmt := .s) (by simp [rows]), by decide, fun rs1 s => ⟨_, exec_trace rs1 s, rfl, rfl⟩⟩

/-- Settles O45: the sum of the conjugates is its own square, so 0 or 1, and has the element's parity, so it is that
parity; the other items are the parity's. -/
theorem traceIsTheParityOfFourCoefficients : Obligations.TraceIsTheParityOfFourCoefficients := by
  refine ⟨traceSum_eq_zero_or_one, fun a b => ?_, ?_, ?_, fun i _ => ?_, traceSum_eq_ite_traceParity⟩
  · simp only [traceSum_eq_ite_traceParity, traceParity_xor]
    cases traceParity a <;> cases traceParity b <;> decide
  · rw [traceSum_eq_ite_traceParity]
    decide
  · rw [traceSum_eq_one_iff]
    decide
  · exact (traceSum_eq_one_iff _).trans (traceParity_monomial_iff i)

end Sys2Proof.Machine

namespace Sys2Proof.Machine

/-! ## Characters, nibbles and the hex length (rules R83 to R85) -/

/-- A character is valid exactly if it lies in one of the table's three ranges, which fix its value (rule R83). -/
theorem digitValue_eq_some_iff (c : Byte) (v : BitVec 4) : digitValue c = some v ↔
    (0x30 ≤ c.toNat ∧ c.toNat ≤ 0x39 ∧ v.toNat = c.toNat - 0x30) ∨
    (0x61 ≤ c.toNat ∧ c.toNat ≤ 0x66 ∧ v.toNat = c.toNat - 0x61 + 10) ∨
    (0x41 ≤ c.toNat ∧ c.toNat ≤ 0x46 ∧ v.toNat = c.toNat - 0x41 + 10) := by
  unfold digitValue
  split_ifs <;> simp [BitVec.toNat_eq] <;> omega

/-- The character put out for a digit, as a number (rule R85). -/
theorem toNat_hexChar (upper : Bool) (v : BitVec 4) : (hexChar upper v).toNat =
    if v.toNat ≤ 9 then 0x30 + v.toNat
    else if upper = true then 0x41 + (v.toNat - 10) else 0x61 + (v.toNat - 10) := by
  unfold hexChar
  split_ifs <;> simp only [BitVec.toNat_ofNat] <;> omega

/-- The character put out for a digit is read back as the digit, in either letter case (rules R83, R85). -/
@[simp] theorem digitValue_hexChar (upper : Bool) (v : BitVec 4) : digitValue (hexChar upper v) = some v := by
  rw [digitValue_eq_some_iff, toNat_hexChar]
  split_ifs <;> omega

theorem getLsbD_nib (a : Elem) (j k : Nat) : (nib a j).getLsbD k = (decide (k < 4) && a.getLsbD (4 * j + k)) :=
  BitVec.getLsbD_extractLsb' (4 * j) 4 a k

/-- Bit 359 does not exist, so the last nibble is at most 7 (rule R84). -/
theorem toNat_nib_last (a : Elem) : (nib a 89).toNat ≤ 7 := by
  have high : ∀ i, 3 ≤ i → (nib a 89).toNat.testBit i = false := fun i hi => by
    rw [BitVec.testBit_toNat, getLsbD_nib, a.getLsbD_of_ge _ (by omega), Bool.and_false]
  exact Nat.le_of_lt_succ (Nat.lt_pow_two_of_testBit (n := 3) _ high)

@[simp] theorem nlen_zero : nlen 0 = 1 := if_pos rfl

theorem nlen_of_ne_zero {a : Elem} (nonzero : a ≠ 0) : nlen a = Nat.log2 a.toNat / 4 + 1 := if_neg nonzero

/-- The length of a nonzero element's string by its degree (rule R84). -/
theorem nlen_eq_deg {a : Elem} (nonzero : a ≠ 0) : (nlen a : Int) = deg a.toNat / 4 + 1 := by
  rw [nlen_of_ne_zero nonzero, deg_of_ne_zero (BitVec.toNat_pos_of_ne_zero nonzero).ne']
  omega

theorem one_le_nlen (a : Elem) : 1 ≤ nlen a := by
  rcases eq_or_ne a 0 with rfl | nonzero
  · exact nlen_zero.ge
  · rw [nlen_of_ne_zero nonzero]
    omega

/-- The digits of the string hold the whole element: its degree is below four times their number. -/
theorem toNat_lt_nlen (a : Elem) : a.toNat < 2 ^ (4 * nlen a) := by
  rcases eq_or_ne a 0 with rfl | nonzero
  · decide
  · rw [nlen_of_ne_zero nonzero, ← Nat.log2_lt (BitVec.toNat_pos_of_ne_zero nonzero).ne']
    omega

/-- The string has at most 90 characters, as the degree is at most 358 (rule R84). -/
theorem nlen_le (a : Elem) : nlen a ≤ 90 := by
  rcases eq_or_ne a 0 with rfl | nonzero
  · decide
  · have degree : Nat.log2 a.toNat < 359 := (Nat.log2_lt (BitVec.toNat_pos_of_ne_zero nonzero).ne').mpr a.isLt
    rw [nlen_of_ne_zero nonzero]
    omega

/-- From degree 356 on the string has 90 characters (rule R84). -/
theorem nlen_of_le_deg {a : Elem} (high : 356 ≤ deg a.toNat) : nlen a = 90 := by
  have nonzero : a ≠ 0 := by
    rintro rfl
    exact absurd high (by decide)
  have length := nlen_eq_deg nonzero
  have longest := nlen_le a
  omega

/-- Settles O46: the table's three ranges decide a character, and the output characters lie in them. -/
theorem validHexCharacters : Obligations.ValidHexCharacters := by
  refine ⟨digitValue_eq_some_iff, fun upper v => ⟨digitValue_hexChar upper v, fun digit => ?_, fun letter => ?_⟩⟩
  · rw [toNat_hexChar, if_pos digit]
  · rw [toNat_hexChar, if_neg (by omega)]

/-- Settles O47: nibbles by their bits; the length by the degree, which is at most 358. -/
theorem hexLengthAndNibbles : Obligations.HexLengthAndNibbles :=
  fun a => ⟨getLsbD_nib a, fun zero => zero ▸ nlen_zero, nlen_eq_deg, one_le_nlen a, nlen_le a, nlen_of_le_deg,
    toNat_nib_last a⟩

end Sys2Proof.Machine

namespace Sys2Proof.Machine

/-! ## The string of an element and its polynomial (rules R86 to R88) -/

/-- The characters of nibbles n − 1 down to 0. -/
def hexSuffix (upper : Bool) (a : Elem) : Nat → List Byte
  | 0 => []
  | n + 1 => hexChar upper (nib a n) :: hexSuffix upper a n

@[simp] theorem length_hexSuffix (upper : Bool) (a : Elem) (n : Nat) : (hexSuffix upper a n).length = n := by
  induction n with
  | zero => rfl
  | succ n ih => rw [hexSuffix, List.length_cons, ih]

/-- The string of an element is all its nibbles' characters, from the most significant on (rule R86). -/
theorem toHex_eq_hexSuffix (upper : Bool) (a : Elem) : toHex upper a = hexSuffix upper a (nlen a) := by
  have range : ∀ n, (List.range n).map (fun k => hexChar upper (nib a (n - 1 - k))) = hexSuffix upper a n := by
    intro n
    induction n with
    | zero => rfl
    | succ n ih =>
      rw [hexSuffix, ← ih, List.range_succ_eq_map, List.map_cons, List.map_map]
      simp [Function.comp_def, Nat.sub_sub, Nat.add_comm]
  exact range (nlen a)

theorem hexPoly_cons {c : Byte} {v : BitVec 4} {cs : List Byte} {p : Poly} (hc : digitValue c = some v)
    (hcs : hexPoly cs = some p) : hexPoly (c :: cs) = some (v.toNat <<< (4 * cs.length) ^^^ p) := by
  rw [hexPoly, hc, hcs]

/-- A string with a polynomial has a valid first character and a polynomial of the rest (rule R87). -/
theorem hexPoly_cons_eq_some {c : Byte} {cs : List Byte} {p : Poly} (h : hexPoly (c :: cs) = some p) :
    ∃ v q, digitValue c = some v ∧ hexPoly cs = some q ∧ p = v.toNat <<< (4 * cs.length) ^^^ q := by
  rw [hexPoly] at h
  split at h
  · next v q hc hcs => exact ⟨v, q, hc, hcs, (Option.some.inj h).symm⟩
  · cases h

/-- A string has a polynomial exactly if all its characters are valid (rule R87). -/
theorem exists_hexPoly_iff (cs : List Byte) : (∃ p, hexPoly cs = some p) ↔ ∀ c ∈ cs, digitValue c ≠ none := by
  induction cs with
  | nil => simp [hexPoly]
  | cons c cs ih =>
    rw [List.forall_mem_cons, ← ih]
    constructor
    · rintro ⟨p, h⟩
      obtain ⟨v, q, hc, hcs, -⟩ := hexPoly_cons_eq_some h
      exact ⟨by simp [hc], q, hcs⟩
    · rintro ⟨valid, q, hcs⟩
      obtain ⟨v, hc⟩ := Option.ne_none_iff_exists'.mp valid
      exact ⟨_, hexPoly_cons hc hcs⟩

/-- Nibble n stands above the low n nibbles (rule R84). -/
theorem nib_shiftLeft_xor_mod (a : Elem) (n : Nat) :
    (nib a n).toNat <<< (4 * n) ^^^ a.toNat % 2 ^ (4 * n) = a.toNat % 2 ^ (4 * (n + 1)) := by
  refine Nat.eq_of_testBit_eq fun i => ?_
  rw [Nat.testBit_xor, Nat.testBit_shiftLeft, Nat.testBit_mod_two_pow, Nat.testBit_mod_two_pow,
    BitVec.testBit_toNat, BitVec.testBit_toNat, getLsbD_nib]
  rcases lt_or_ge i (4 * n) with low | high
  · have notHigh : ¬ 4 * n ≤ i := by omega
    have below : i < 4 * (n + 1) := by omega
    simp [low, notHigh, below]
  · have notLow : ¬ i < 4 * n := by omega
    have position : 4 * n + (i - 4 * n) = i := by omega
    have inNibble : i - 4 * n < 4 ↔ i < 4 * (n + 1) := by omega
    simp [high, notLow, position, inNibble]

/-- The characters of the low n nibbles have the low 4n coefficients as their polynomial (rules R86, R87). -/
theorem hexPoly_hexSuffix (upper : Bool) (a : Elem) (n : Nat) :
    hexPoly (hexSuffix upper a n) = some (a.toNat % 2 ^ (4 * n)) := by
  induction n with
  | zero => simp [hexSuffix, hexPoly, Nat.mod_one]
  | succ n ih =>
    rw [hexSuffix, hexPoly_cons (digitValue_hexChar upper (nib a n)) ih, length_hexSuffix, nib_shiftLeft_xor_mod]

/-- The polynomial of an element's string is the element (rule R88). -/
theorem hexPoly_toHex (upper : Bool) (a : Elem) : hexPoly (toHex upper a) = some a.toNat := by
  rw [toHex_eq_hexSuffix, hexPoly_hexSuffix, Nat.mod_eq_of_lt (toNat_lt_nlen a)]

theorem toHex_ne_nil (upper : Bool) (a : Elem) : toHex upper a ≠ [] := by
  have length := one_le_nlen a
  rw [toHex_eq_hexSuffix, ← List.length_pos_iff, length_hexSuffix]
  exact length

/-- Settles O48: the string's polynomial is the element itself, its own remainder. -/
theorem fromHexOfToHex : Obligations.FromHexOfToHex :=
  fun upper a => ⟨⟨toHex_ne_nil upper a, (exists_hexPoly_iff _).mp ⟨_, hexPoly_toHex upper a⟩⟩,
    _, hexPoly_toHex upper a, isRemainder_iff.mpr rfl⟩

end Sys2Proof.Machine

namespace Sys2Proof.Machine

/-! ## The stream of HEXPUTs (rules R90, R91) -/

/-- The polynomial HEXPUT reduces has degree at most 362 (rule R90). -/
theorem shiftLeft_xor_lt (h : Elem) (v : BitVec 4) : h.toNat <<< 4 ^^^ v.toNat < 2 ^ 363 := by
  have shifted : h.toNat <<< 4 < 2 ^ 363 := by
    have bound := h.isLt
    rw [Nat.shiftLeft_eq]
    omega
  exact Nat.xor_lt_two_pow shifted (v.isLt.trans (by decide))

/-- HEXPUT's new HIN is in the class of the old one times x^4, plus the digit (rule R90). -/
theorem residue_hornerStep (h : Elem) (v : BitVec 4) :
    residue (hornerStep h v).toNat = residue (h.toNat <<< 4 ^^^ v.toNat) :=
  residue_reduce ((shiftLeft_xor_lt h v).trans (Nat.pow_lt_pow_right one_lt_two (by decide)))

theorem residue_shiftLeft (p : Poly) (n : Nat) : residue (p <<< n) = residue p * residue (1 <<< n) := by
  simp [residue]

/-- The step of Horner's rule: with the digit taken in, the rest of the string goes on from the new HIN (rule R91). -/
theorem residue_hornerStep_shiftLeft_xor (h : Elem) (v : BitVec 4) (n : Nat) (q : Poly) :
    residue ((hornerStep h v).toNat <<< (4 * n) ^^^ q) =
      residue (h.toNat <<< (4 * (n + 1)) ^^^ (v.toNat <<< (4 * n) ^^^ q)) := by
  calc residue ((hornerStep h v).toNat <<< (4 * n) ^^^ q)
      = residue ((h.toNat <<< 4 ^^^ v.toNat) <<< (4 * n) ^^^ q) := by
        rw [residue_xor, residue_xor, residue_shiftLeft, residue_hornerStep, ← residue_shiftLeft]
    _ = residue (h.toNat <<< (4 * (n + 1)) ^^^ (v.toNat <<< (4 * n) ^^^ q)) := by
        rw [Nat.shiftLeft_xor_distrib, ← Nat.shiftLeft_add, Nat.xor_assoc, Nat.mul_succ, Nat.add_comm 4]

/-- A command that answers a state hands it to the rest. -/
theorem runCommands_cons {i : Instr} {s t : State} (h : exec i s = .next t) (is : List Instr) :
    runCommands (i :: is) s = runCommands is t := by
  rw [runCommands, h]

/-- HEXPUTs of valid characters take HIN, up to its class, to HIN times x^(4n) plus the string's polynomial (rule R91);
after the first of them HANY is 1 and ERR 0, which no later one changes. -/
theorem runCommands_hexput {cs : List Byte} {p : Poly} (s : State) (h : Elem) (hp : hexPoly cs = some p) :
    ∃ g : Elem, runCommands (cs.map .hexput) { s with hin := h, hany := true, err := 0 } =
        .next { s with hin := g, hany := true, err := 0 } ∧
      residue g.toNat = residue (h.toNat <<< (4 * cs.length) ^^^ p) := by
  induction cs generalizing h p with
  | nil =>
    cases hp
    exact ⟨h, rfl, by simp⟩
  | cons c cs ih =>
    obtain ⟨v, q, hc, hcs, rfl⟩ := hexPoly_cons_eq_some hp
    obtain ⟨g, run, sameClass⟩ := ih (hornerStep h v) hcs
    refine ⟨g, ?_, sameClass.trans (residue_hornerStep_shiftLeft_xor h v cs.length q)⟩
    rw [List.map_cons, runCommands_cons (exec_hexput_of_valid _ hc)]
    exact run

/-- HEXB answers the state with the hex input cleared (rule R89). -/
theorem exec_hexb (s : State) : exec .hexb s = .next s.clearHexInput.complete := rfl

/-- HEXB and the HEXPUTs of a well-formed string: HIN holds the value of the string, HANY is 1, HBAD and ERR are 0, and
nothing else changes (rule R91). -/
theorem runCommands_hexb_hexput {cs : List Byte} (s : State) (wellFormed : HexWellFormed cs) :
    ∃ g : Elem, FromHex cs g ∧ runCommands (.hexb :: cs.map .hexput) s =
      .next { s with hin := g, hany := true, hbad := false, err := 0 } := by
  obtain ⟨p, hp⟩ := (exists_hexPoly_iff cs).mpr wellFormed.2
  obtain _ | ⟨c, rest⟩ := cs
  · exact absurd rfl wellFormed.1
  obtain ⟨v, q, hc, hrest, rfl⟩ := hexPoly_cons_eq_some hp
  obtain ⟨g, run, sameClass⟩ := runCommands_hexput s.clearHexInput.complete (hornerStep 0 v) hrest
  refine ⟨g, ⟨wellFormed, _, hp, isRemainder_iff.mpr (sameClass.trans ?_)⟩, ?_⟩
  · rw [residue_hornerStep_shiftLeft_xor]
    simp
  · rw [List.map_cons, runCommands_cons (exec_hexb s), runCommands_cons (exec_hexput_of_valid _ hc)]
    exact run

/-- Settles O51: Horner's rule by induction over the string, in the residue classes modulo f. -/
theorem hexInputHoldsFromHex : Obligations.HexInputHoldsFromHex := by
  intro cs s wellFormed
  obtain ⟨g, value, run⟩ := runCommands_hexb_hexput s wellFormed
  exact ⟨_, run, value, rfl, rfl, rfl, rfl⟩

/-! ## HEXB, HEXPUT and HEXE (rules R89, R90, R92) -/

/-- HEXE leaves the hex input clear in both its cases (rule R92). -/
theorem exec_hexe_clears_input {rd : Reg} {s t : State} (h : exec (.hexe rd) s = .next t) :
    t.hin = 0 ∧ t.hany = false ∧ t.hbad = false := by
  by_cases malformed : s.hbad = true ∨ s.hany = false
  · cases (exec_hexe_of_malformed rd malformed).symm.trans h
    exact ⟨rfl, rfl, rfl⟩
  · cases (exec_hexe_of_wellFormed rd malformed).symm.trans h
    exact ⟨rfl, rfl, rfl⟩

/-- Settles O49: HEXB's row gives its words, its meaning is one clearing; HEXE clears in both its cases. -/
theorem hexbClearsTheInput : Obligations.HexbClearsTheInput :=
  ⟨encodedAs_of_mem_rows (fmt := .n) (by simp [rows]), fun s => completesAs_of_exec (exec_hexb s),
    fun _ _ _ => exec_hexe_clears_input, rfl, rfl, rfl⟩

/-- Settles O50: HEXPUT's row gives its words, its meaning has a case for valid and one for invalid characters. -/
theorem hexputAppendsOneCharacter : Obligations.HexputAppendsOneCharacter :=
  ⟨encodedAs_of_mem_rows (fmt := .i) (by simp [rows]),
    fun _ v s valid => ⟨shiftLeft_xor_lt s.hin v, completesAs_of_exec (exec_hexput_of_valid s valid)⟩,
    fun _ s invalid => completesAs_of_exec (exec_hexput_of_invalid s invalid)⟩

/-- Settles O53: HEXE's row gives its words, its meaning has a case that rejects and one that writes F[rd]. -/
theorem hexeWritesOrRejects : Obligations.HexeWritesOrRejects := by
  refine ⟨encodedAs_of_mem_rows (fmt := .d) (by simp [rows]), fun rd s malformed => exec_hexe_of_malformed rd malformed,
    fun rd s good any => ⟨_, exec_hexe_of_wellFormed rd (by simp [good, any]), ?_, fun r different => ?_, rfl⟩⟩
  · rw [State.readF_complete, State.readF_clearHexInput, State.readF_writeF_same]
  · rw [State.readF_complete, State.readF_clearHexInput, State.readF_writeF_other _ _ _ _ different]

end Sys2Proof.Machine

namespace Sys2Proof.Machine

/-! ## TOHEX and HEXGET (rules R93, R94) -/

/-- TOHEX answers the state with F[rs1] and its length in the hex output, and the length in S (rule R93). -/
theorem exec_tohex (rs1 : Reg) (s : State) :
    exec (.tohex rs1) s =
      .next
        { s with
          hoval := s.readF rs1
          holen := BitVec.ofNat 7 (nlen (s.readF rs1))
          hoptr := 0
          sreg := BitVec.ofNat 64 (nlen (s.readF rs1))
          err := 0 } := rfl

/-- The length fits a register of 7 bits or more, as HOLEN and S are (rules R16, R24). -/
theorem toNat_ofNat_nlen (a : Elem) {w : Nat} (width : 7 ≤ w) : (BitVec.ofNat w (nlen a)).toNat = nlen a := by
  have fits : nlen a < 2 ^ 7 := (nlen_le a).trans_lt (by decide)
  rw [BitVec.toNat_ofNat, Nat.mod_eq_of_lt (fits.trans_le (Nat.pow_le_pow_right two_pos width))]

/-- Settles O54: TOHEX's row gives its words, its meaning is one load of the output and S; the length is 1 to 90. -/
theorem tohexLoadsTheOutput : Obligations.TohexLoadsTheOutput := by
  refine ⟨encodedAs_of_mem_rows (fmt := .s) (by simp [rows]), by decide, fun rs1 s => ?_⟩
  have length : (BitVec.ofNat 64 (nlen (s.readF rs1))).toNat = nlen (s.readF rs1) := toNat_ofNat_nlen _ (by decide)
  refine ⟨_, exec_tohex rs1 s, rfl, fun _ _ => rfl, toNat_ofNat_nlen _ le_rfl, rfl, length, ?_, ?_, fun zero => ?_, rfl⟩
  · exact (one_le_nlen _).trans_eq length.symm
  · exact length.trans_le (nlen_le _)
  · rw [zero, nlen_zero]
    rfl

/-- One HEXGET, and the rest from the state it leaves. -/
theorem hexgets_succ {s t : State} (h : exec .hexget s = .next t) (n : Nat) :
    hexgets (n + 1) s = (hexgets n t).map fun vs => (t.sreg :: vs.1, vs.2) := by
  rw [hexgets, h]

/-- With n characters left, n HEXGETs put out those of the low n nibbles of HOVAL and move HOPTR to the end (rule R94). -/
theorem hexgets_of_left {n : Nat} {s : State} (left : s.hoptr.toNat + n = s.holen.toNat) :
    ∃ u, hexgets n s = some ((hexSuffix Config.hexOutUpper s.hoval n).map fun c => c.setWidth 64, u) ∧
      u.hoptr = u.holen := by
  induction n generalizing s with
  | zero => exact ⟨s, rfl, BitVec.eq_of_toNat_eq left⟩
  | succ n ih =>
    have notEnd : s.hoptr < s.holen := BitVec.lt_def.mpr (by omega)
    have nibble : s.holen.toNat - 1 - s.hoptr.toNat = n := by omega
    have moved : (s.hoptr + 1).toNat + n = s.holen.toNat := by
      have bound := s.holen.isLt
      show (s.hoptr.toNat + 1) % 2 ^ 7 + n = s.holen.toNat
      omega
    have get := exec_hexget_of_lt notEnd
    rw [nibble] at get
    obtain ⟨u, run, atEnd⟩ := ih (s := ({ s with hoptr := s.hoptr + 1 }.writeS _).complete) moved
    refine ⟨u, ?_, atEnd⟩
    rw [hexgets_succ get, run]
    rfl

/-- Settles O55: HEXGET's row gives its words, its meaning has a case before the end and one past it; after TOHEX the
whole length is left. -/
theorem hexgetEmitsTheString : Obligations.HexgetEmitsTheString := by
  refine ⟨encodedAs_of_mem_rows (fmt := .n) (by simp [rows]),
    fun s before => completesAs_of_exec (exec_hexget_of_lt before),
    fun s past => completesAs_of_exec (exec_hexget_of_not_lt past), fun rs1 s t h => ?_⟩
  have loaded := Host.Outcome.next.inj ((exec_tohex rs1 s).symm.trans h)
  have value : t.hoval = s.readF rs1 := by rw [← loaded]
  have left : t.hoptr.toNat + nlen (s.readF rs1) = t.holen.toNat := by
    rw [← loaded, toNat_ofNat_nlen _ le_rfl]
    exact Nat.zero_add _
  obtain ⟨u, run, atEnd⟩ := hexgets_of_left left
  have past : ¬ u.hoptr < u.holen := atEnd ▸ BitVec.lt_irrefl u.hoptr
  rw [value, ← toHex_eq_hexSuffix] at run
  exact ⟨u, run, completesAs_of_exec (exec_hexget_of_not_lt past)⟩

end Sys2Proof.Machine

namespace Sys2Proof.Machine

/-! ## Errors (spec/60_exceptions.md) -/

/-- How a command can end: with code 0, as its row of rule R95's table says, or in one of the three error cases, with
that case's writes and no others (rules R90, R92, R96, R98). -/
theorem exec_next {i : Instr} {s t : State} (h : exec i s = .next t) :
    (codeOf i s = 0 ∧ t.err = 0) ∨
    (∃ rd rs1, i = .inv rd rs1 ∧ s.readF rs1 = 0 ∧ t = s.raise .inverseOfZero) ∨
    (∃ c, i = .hexput c ∧ digitValue c = none ∧ t = { s with hbad := true }.raise .malformedInput) ∨
    ∃ rd, i = .hexe rd ∧ (s.hbad = true ∨ s.hany = false) ∧ t = s.clearHexInput.raise .malformedInput := by
  cases i with
  | inv rd rs1 =>
    by_cases hz : s.readF rs1 = 0
    · cases (exec_inv_of_zero rd hz).symm.trans h
      exact .inr (.inl ⟨rd, rs1, rfl, hz, rfl⟩)
    · cases (exec_inv_of_ne_zero rd hz).symm.trans h
      exact .inl ⟨if_neg hz, rfl⟩
  | hexput c =>
    cases hv : digitValue c with
    | none =>
      cases (exec_hexput_of_invalid s hv).symm.trans h
      exact .inr (.inr (.inl ⟨c, rfl, hv, rfl⟩))
    | some v =>
      cases (exec_hexput_of_valid s hv).symm.trans h
      exact .inl ⟨by simp [codeOf, hv], rfl⟩
  | hexe rd =>
    by_cases hm : s.hbad = true ∨ s.hany = false
    · cases (exec_hexe_of_malformed rd hm).symm.trans h
      exact .inr (.inr (.inr ⟨rd, rfl, hm, rfl⟩))
    · cases (exec_hexe_of_wellFormed rd hm).symm.trans h
      exact .inl ⟨if_neg hm, rfl⟩
  | hexget =>
    by_cases hl : s.hoptr < s.holen
    · cases (exec_hexget_of_lt hl).symm.trans h
      exact .inl ⟨rfl, rfl⟩
    · cases (exec_hexget_of_not_lt hl).symm.trans h
      exact .inl ⟨rfl, rfl⟩
  | zero | one | mov | eq | add | mul | sqr | powx | powf | trace | hexb | tohex =>
    cases h
    exact .inl ⟨rfl, rfl⟩

/-- A command ends with the code of rule R95's table. -/
theorem exec_err {i : Instr} {s t : State} (h : exec i s = .next t) : t.err = codeOf i s := by
  rcases exec_next h with ⟨code, err⟩ | ⟨rd, rs1, rfl, hz, rfl⟩ | ⟨c, rfl, hv, rfl⟩ | ⟨rd, rfl, hm, rfl⟩
  · exact err.trans code.symm
  · exact (if_pos hz).symm
  · exact (if_pos hv).symm
  · exact (if_pos hm).symm

/-- No command ends with the code of an illegal word, nor with one that rule R95 does not list. -/
theorem exec_err_eq {i : Instr} {s t : State} (h : exec i s = .next t) : t.err = 0 ∨ t.err = 2 ∨ t.err = 3 := by
  rcases exec_next h with ⟨-, err⟩ | ⟨rd, rs1, -, -, rfl⟩ | ⟨c, -, -, rfl⟩ | ⟨rd, -, -, rfl⟩
  · exact .inl err
  · exact .inr (.inl rfl)
  · exact .inr (.inr rfl)
  · exact .inr (.inr rfl)

/-- Code 2 comes from INV of zero only (rule R98). -/
theorem exec_err_eq_two {i : Instr} {s t : State} (h : exec i s = .next t) (two : t.err = 2) :
    ∃ rd rs1, i = .inv rd rs1 ∧ s.readF rs1 = 0 := by
  rcases exec_next h with ⟨-, err⟩ | ⟨rd, rs1, hi, hz, -⟩ | ⟨c, -, -, rfl⟩ | ⟨rd, -, -, rfl⟩
  · exact absurd (err.symm.trans two) (by decide)
  · exact ⟨rd, rs1, hi, hz⟩
  · exact absurd two (by rw [State.raise_err]; decide)
  · exact absurd two (by rw [State.raise_err]; decide)

/-- A HEXPUT that fails has set HBAD (rule R90). -/
theorem exec_hexput_sets_hbad {c : Byte} {s t : State} (h : exec (.hexput c) s = .next t) (failed : t.err ≠ 0) :
    t.hbad = true := by
  rcases exec_next h with ⟨-, err⟩ | ⟨rd, rs1, hi, -⟩ | ⟨_, -, -, rfl⟩ | ⟨rd, hi, -⟩
  · exact absurd err failed
  · cases hi
  · rfl
  · cases hi

/-- A command that ends with a nonzero code has made its error case's writes and no others (rule R96). -/
theorem exec_eq_of_err_ne_zero {i : Instr} {s t : State} (h : exec i s = .next t) (failed : t.err ≠ 0) :
    t = { s with err := t.err } ∨
    (∃ c, i = .hexput c ∧ t = { s with hbad := true, err := t.err }) ∨
    ∃ rd, i = .hexe rd ∧ t = { s with hin := 0, hany := false, hbad := false, err := t.err } := by
  rcases exec_next h with ⟨-, err⟩ | ⟨rd, rs1, -, -, rfl⟩ | ⟨c, hi, -, rfl⟩ | ⟨rd, hi, -, rfl⟩
  · exact absurd err failed
  · exact .inl rfl
  · exact .inr (.inl ⟨c, hi, rfl⟩)
  · exact .inr (.inr ⟨rd, hi, rfl⟩)

/-- Code 1 is exactly for the words that decode to no command (rules R95, R97). -/
theorem executeWord_err_eq_one_iff {w : Word32} {s t : State} (h : executeWord w s = .next t) :
    t.err = 1 ↔ decode w = none := by
  rcases executeWord_next h with ⟨hd, rfl⟩ | ⟨i, u, hd, hu, rfl⟩
  · exact iff_of_true rfl hd
  · refine iff_of_false ?_ (by simp [hd])
    rw [State.retire_err]
    rcases exec_err_eq hu with err | err | err <;> simp [err]

/-- Whatever the word, PEND is empty after it (rule R52). -/
theorem executeWord_pend {w : Word32} {s t : State} (h : executeWord w s = .next t) : t.pend = none := by
  rcases executeWord_next h with ⟨-, rfl⟩ | ⟨i, u, -, -, rfl⟩ <;> rfl

/-- Settles O40: INV's zero case, the error cases of `exec_next`, and the five meanings, which have no error case. -/
theorem invOfZeroReportsAndKeepsAll : Obligations.InvOfZeroReportsAndKeepsAll := by
  refine ⟨fun rd _ _ hz => exec_inv_of_zero rd hz, fun _ _ _ => exec_err_eq_two, ?_⟩
  rintro i s ⟨rd, rs1, rs2, rfl | rfl | rfl | rfl | rfl⟩ <;> exact ⟨_, rfl, rfl⟩

/-- Settles O56: each way a command can end carries its row's code and its error case's writes. -/
theorem everyCommandReportsItsCode : Obligations.EveryCommandReportsItsCode := by
  refine ⟨fun i s t h => ⟨exec_err h, ?_⟩, fun _ _ _ => executeWord_err_eq_one_iff, fun _ _ _ h three =>
    exec_hexput_sets_hbad h (by simp [three]), fun _ _ _ h _ => exec_hexe_clears_input h⟩
  rcases exec_err_eq h with err | err | err <;> simp [err]

/-- Settles O57: the error cases of `exec_next`, and the engine's emptying of PEND. -/
theorem failingCommandsWriteNothingElse : Obligations.FailingCommandsWriteNothingElse :=
  ⟨fun _ _ _ => exec_eq_of_err_ne_zero, fun _ _ _ => executeWord_pend⟩

end Sys2Proof.Machine

namespace Sys2Proof.Machine

/-! ## One step, input by input (rules R4, R52) -/

/-- With no input left the step is the engine's turn. -/
theorem step_of_no_inputs {s : State} (h : s.inputs = []) : step s = engineStep s := by
  rw [step, h]

/-- With inputs left the step is the first one's. -/
theorem step_of_inputs {s : State} {i : Input} {rest : List Input} (h : s.inputs = i :: rest) :
    step s = inputStep i rest s := by
  rw [step, h]

/-- A POLL that finds BUSY = 1 gives the step to the engine (rule R54). -/
theorem inputStep_poll_of_busy {s : State} (rest : List Input) (busy : s.busy = true) (released : s.inReset = false) :
    inputStep .poll rest s = engineStep s := by
  simp [inputStep, pollStep, busy, released]

@[simp] theorem State.hostRead_inputs (s : State) (reg : WindowReg) : (s.hostRead reg).inputs = s.inputs := by
  rcases s.hostRead_cases reg with ⟨e, -⟩ | ⟨e, -⟩ <;> rw [e]

@[simp] theorem State.hostRead_inReset (s : State) (reg : WindowReg) : (s.hostRead reg).inReset = s.inReset := by
  rcases s.hostRead_cases reg with ⟨e, -⟩ | ⟨e, -⟩ <;> rw [e]

/-- The word that the hook places is executed by the next step (notes/assumptions/8.md). -/
theorem step_withFetchWord (s : State) (nbits w : Nat) :
    step (s.withFetchWord nbits w) =
      executeWord (tableWord nbits w) { s with pend := some (tableWord nbits w), inReset := false } :=
  engineStep_of_latched (s := { s with pend := some (tableWord nbits w), inReset := false }) rfl rfl

/-- A run whose first step goes on is the run from there. -/
theorem run_succ {M : Host.Core} {s t : M.State} (h : M.step s = .next t) (n : Nat) : M.run (n + 1) s = M.run n t := by
  rw [Host.Core.run, h]

theorem core_run_succ {s t : State} (h : step s = .next t) (n : Nat) :
    Sys2Proof.core.run (n + 1) s = Sys2Proof.core.run n t := run_succ (M := Sys2Proof.core) h n

/-! ## A latched command completes (rule R113) -/

/-- The next step settles the latched word's fate: it executes it, or stops at a refused access, or is a reset that
abandons it. -/
def LatchedEndsNext (w : Word32) (u : State) : Prop :=
  ExecutesNext w u ∨ (∃ why, step u = .refused why) ∨
    ∃ rest t, u.inputs = .resetAssert :: rest ∧ step u = .next t ∧ t.pend = none

/-- A step that is the engine's turn executes the latched word. -/
theorem executesNext_of_engineStep {s t : State} {w : Word32} {inputs : List Input} (hp : s.pend = some w)
    (released : s.inReset = false) (answer : step s = .next t)
    (engine : engineStep { s with inputs := inputs } = .next t) : ExecutesNext w s := by
  rw [engineStep_of_latched (s := { s with inputs := inputs }) hp released] at engine
  exact ⟨inputs, t, engine, answer, executeWord_pend engine⟩

/-- With a word latched and reset released, a step settles its fate or uses up one input and leaves it latched. -/
theorem step_of_latched {s : State} {w : Word32} (hp : s.pend = some w) (released : s.inReset = false) :
    LatchedEndsNext w s ∨
      ∃ i t, s.inputs = i :: t.inputs ∧ step s = .next t ∧ t.pend = some w ∧ t.inReset = false := by
  cases answer : step s with
  | fault why => cases why
  | refused why => exact .inl (.inr (.inl ⟨why, answer⟩))
  | next t =>
    rcases step_next answer with ⟨-, engine⟩ | ⟨i, rest, hin, hc⟩
    · exact .inl (.inl (executesNext_of_engineStep hp released answer engine))
    rcases hc with ⟨addr, size, v, -, write⟩ | ⟨addr, size, -, read⟩ | ⟨-, -, -, engine⟩ | ⟨-, idle, -⟩ | ⟨-, engine⟩ |
      ⟨rfl, rfl⟩ | ⟨-, asserted, -⟩ | ⟨-, -, rfl⟩
    · obtain ⟨-, -, o, -, -, rfl⟩ := State.access_next write
      obtain ⟨pend, inputs, level⟩ := State.hostWrite_keeps_latched { s with inputs := rest } (regAt o) v hp
      exact .inr ⟨i, _, by rw [hin, inputs], rfl, pend, level.trans released⟩
    · obtain ⟨-, -, o, -, -, rfl⟩ := State.access_next read
      exact .inr ⟨i, _, by rw [hin, State.hostRead_inputs], rfl, by simpa using hp, by simpa using released⟩
    · exact .inl (.inl (executesNext_of_engineStep hp released answer engine))
    · simp [State.busy, hp] at idle
    · exact .inl (.inl (executesNext_of_engineStep hp released answer engine))
    · exact .inl (.inr (.inr ⟨rest, _, hin, answer, rfl⟩))
    · simp [released] at asserted
    · exact .inr ⟨i, _, hin, rfl, hp, released⟩

/-- The latched word's fate is settled when its inputs are used up, at the latest: each step that leaves it latched
uses up one of them. -/
theorem exists_run_latchedEndsNext {s : State} {w : Word32} (hp : s.pend = some w) (released : s.inReset = false) :
    ∃ n u, n ≤ s.inputs.length ∧ Sys2Proof.core.run n s = .next u ∧ u.pend = some w ∧ u.inReset = false ∧
      u.inputs <:+ s.inputs ∧ LatchedEndsNext w u := by
  induction hin : s.inputs generalizing s with
  | nil =>
    rcases step_of_latched hp released with ends | ⟨i, t, left, -⟩
    · exact ⟨0, s, le_rfl, rfl, hp, released, hin ▸ List.suffix_rfl, ends⟩
    · simp [hin] at left
  | cons i rest ih =>
    rcases step_of_latched hp released with ends | ⟨j, t, left, answer, hpt, releasedt⟩
    · exact ⟨0, s, Nat.zero_le _, rfl, hp, released, hin ▸ List.suffix_rfl, ends⟩
    · obtain ⟨-, rfl⟩ := List.cons.inj (hin.symm.trans left)
      obtain ⟨n, u, bound, run, hpu, releasedu, suffix, ends⟩ := ih hpt releasedt rfl
      exact ⟨n + 1, u, Nat.succ_le_succ bound, (core_run_succ answer n).trans run, hpu, releasedu,
        suffix.trans (List.suffix_cons i _), ends⟩

/-- Whether an input is admitted depends on the reset input only (rules R32, R108). -/
theorem Input.admitted_congr {s u : State} (h : u.inReset = s.inReset) (i : Input) : i.admitted u ↔ i.admitted s := by
  cases i <;> simp [Input.admitted, h]

/-- With admitted inputs and no reset among them, the one fate left is that the word is executed. -/
theorem LatchedEndsNext.executesNext {w : Word32} {u : State} (ends : LatchedEndsNext w u)
    (inputs : ∀ i ∈ u.inputs, i.admitted u ∧ i ≠ .resetAssert) : ExecutesNext w u := by
  rcases ends with executes | refused | ⟨rest, -, hin, -⟩
  · exact executes
  · obtain ⟨i, rest, hin, notAdmitted⟩ := (stepStopsOnlyAtRefusedAccesses u).2.1 refused
    exact absurd (inputs i (by simp [hin])).1 notAdmitted
  · exact absurd rfl (inputs .resetAssert (by simp [hin])).2

/-- Settles O59, by induction over the inputs: each of them is used up by the step that leaves the word latched. -/
theorem latchedCommandCompletes : Obligations.LatchedCommandCompletes := by
  intro s w hp released
  obtain ⟨n, u, bound, run, hpu, releasedu, suffix, ends⟩ := exists_run_latchedEndsNext hp released
  refine ⟨⟨n, u, bound, run, hpu, ends⟩, fun inputs => ⟨n, u, bound, run, hpu, ends.executesNext fun i hi => ?_⟩⟩
  obtain ⟨admitted, noReset⟩ := inputs i (suffix.subset hi)
  exact ⟨(Input.admitted_congr (releasedu.trans released.symm) i).mpr admitted, noReset⟩

/-- Settles O24: the engine's turn executes the latched word, at each of the places where it is the engine's turn. -/
theorem stepExecutesTheLatchedCommand : Obligations.StepExecutesTheLatchedCommand := by
  intro s t w i rest released hp hd
  refine ⟨fun hin runs => ?_, fun hin runs => ?_, fun hin runs => ?_, fun n hdn runs => ?_⟩
  · rw [step_of_inputs hin]
    exact (engineStep_of_latched (s := { s with inputs := rest }) hp released).trans (executeWord_of_exec hd runs)
  · rw [step_of_no_inputs hin, engineStep_of_latched hp released]
    exact executeWord_of_exec hd runs
  · rw [step_of_inputs hin, inputStep_poll_of_busy rest (by simp [State.busy, hp]) released,
      engineStep_of_latched hp released]
    exact executeWord_of_exec hd runs
  · have placed : { s with pend := some (tableWord 32 n), inReset := false } =
        { s with pend := some (tableWord 32 n) } := by
      rw [released]
    rw [step_withFetchWord, placed]
    exact executeWord_of_exec hdn runs

end Sys2Proof.Machine

namespace Sys2Proof.Machine

/-! ## What a command leaves alone (rules R9 to R27, R112)

One rule per operation that commands are made of; the frame of a command is put together from them. OVR, PEND and S are
in `exec_keeps_status_and_s`. -/

/-- `t` is `s` but for what the command `i` may write. -/
structure WritesOnlyOwnState (i : Instr) (s t : State) : Prop where
  x : t.x = s.x
  inReset : t.inReset = s.inReset
  inputs : t.inputs = s.inputs
  reads : t.reads = s.reads
  fields : ∀ r, destOf i ≠ some r → t.readF r = s.readF r
  hexInput : touchesHexInput i = false → t.hin = s.hin ∧ t.hany = s.hany ∧ t.hbad = s.hbad
  hexOutput : touchesHexOutput i = false → t.hoval = s.hoval ∧ t.holen = s.holen ∧ t.hoptr = s.hoptr
  datapath : t.dp = datapathFrame i s.dp t.dp
  draws : usesDatapath i = false → t.draws = s.draws

namespace WritesOnlyOwnState

variable {i : Instr} {s t : State}

/-- A command may leave everything as it is. -/
theorem refl (i : Instr) (s : State) : WritesOnlyOwnState i s s where
  x := rfl
  inReset := rfl
  inputs := rfl
  reads := rfl
  fields _ _ := rfl
  hexInput _ := ⟨rfl, rfl, rfl⟩
  hexOutput _ := ⟨rfl, rfl, rfl⟩
  datapath := by cases i <;> rfl
  draws _ := rfl

/-- A command that uses the datapath may leave new values in the registers the rules give it (rules R25 to R27). -/
theorem spend {dp : Datapath} {draws : Nat} (uses : usesDatapath i = true) (frame : dp = datapathFrame i s.dp dp) :
    WritesOnlyOwnState i s { s with dp := dp, draws := draws } :=
  { refl i s with
    datapath := frame
    draws := fun keeps => absurd (uses.symm.trans keeps) (by decide) }

/-- A command may write its destination (rule R9). -/
theorem writeF (h : WritesOnlyOwnState i s t) {rd : Reg} (dest : destOf i = some rd) (a : Elem) :
    WritesOnlyOwnState i s (t.writeF rd a) :=
  { h with
    fields := fun r other =>
      (t.readF_writeF_other rd r a fun same => other (same ▸ dest)).trans (h.fields r other) }

theorem writeS (h : WritesOnlyOwnState i s t) (v : Word64) : WritesOnlyOwnState i s (t.writeS v) := { h with }

/-- Every command writes ERR (rule R20). -/
theorem setErr (h : WritesOnlyOwnState i s t) (v : BitVec 4) : WritesOnlyOwnState i s (t.setErr v) := { h with }

/-- A hex input command may write the hex input state (rule R23). -/
theorem writeHexInput (h : WritesOnlyOwnState i s t) (touches : touchesHexInput i = true) (hin : Elem)
    (hany hbad : Bool) :
    WritesOnlyOwnState i s { t with hin := hin, hany := hany, hbad := hbad } :=
  { h with hexInput := fun keeps => absurd (touches.symm.trans keeps) (by decide) }

/-- A hex output command may write the hex output state (rule R24). -/
theorem writeHexOutput (h : WritesOnlyOwnState i s t) (touches : touchesHexOutput i = true) (hoval : Elem)
    (holen hoptr : BitVec 7) : WritesOnlyOwnState i s { t with hoval := hoval, holen := holen, hoptr := hoptr } :=
  { h with hexOutput := fun keeps => absurd (touches.symm.trans keeps) (by decide) }

end WritesOnlyOwnState

/-- Every command writes its own state only: each branch of its meaning is made of the writes its rule lists. -/
theorem exec_writesOnlyOwnState {i : Instr} {s t : State} (h : exec i s = .next t) : WritesOnlyOwnState i s t := by
  have same := WritesOnlyOwnState.refl i s
  cases i with
  | zero | one | mov | add =>
    cases h
    exact (same.writeF rfl _).setErr 0
  | mul | sqr | powx | powf =>
    cases h
    exact ((WritesOnlyOwnState.spend rfl rfl).writeF rfl _).setErr 0
  | inv rd rs1 =>
    by_cases hz : s.readF rs1 = 0
    · cases (exec_inv_of_zero rd hz).symm.trans h
      exact same.setErr 2
    · cases (exec_inv_of_ne_zero rd hz).symm.trans h
      exact ((WritesOnlyOwnState.spend rfl rfl).writeF rfl _).setErr 0
  | eq =>
    cases h
    exact (same.writeS _).setErr 0
  | trace =>
    cases h
    exact ((WritesOnlyOwnState.spend rfl rfl).writeS _).setErr 0
  | hexb =>
    cases h
    exact (same.writeHexInput rfl 0 false false).setErr 0
  | hexput c =>
    cases hv : digitValue c with
    | none =>
      cases (exec_hexput_of_invalid s hv).symm.trans h
      exact (same.writeHexInput rfl s.hin s.hany true).setErr 3
    | some v =>
      cases (exec_hexput_of_valid s hv).symm.trans h
      exact (same.writeHexInput rfl (hornerStep s.hin v) true s.hbad).setErr 0
  | hexe rd =>
    by_cases hm : s.hbad = true ∨ s.hany = false
    · cases (exec_hexe_of_malformed rd hm).symm.trans h
      exact (same.writeHexInput rfl 0 false false).setErr 3
    · cases (exec_hexe_of_wellFormed rd hm).symm.trans h
      exact ((same.writeF rfl s.hin).writeHexInput rfl 0 false false).setErr 0
  | tohex rs1 =>
    cases h
    exact ((same.writeHexOutput rfl (s.readF rs1) _ 0).writeS _).setErr 0
  | hexget =>
    by_cases hl : s.hoptr < s.holen
    · cases (exec_hexget_of_lt hl).symm.trans h
      exact ((same.writeHexOutput rfl s.hoval s.holen (s.hoptr + 1)).writeS _).setErr 0
    · cases (exec_hexget_of_not_lt hl).symm.trans h
      exact (same.writeS 0).setErr 0

/-- Settles O6: OVR, PEND and S by the commands' noninterference, the rest by the frame. -/
theorem commandsWriteOnlyTheirOwnState : Obligations.CommandsWriteOnlyTheirOwnState := by
  intro i s t h
  obtain ⟨hovr, hpend, hsreg⟩ := exec_keeps_status_and_s h
  have frame := exec_writesOnlyOwnState h
  exact ⟨⟨frame.x, hovr, hpend, frame.inReset, frame.inputs, frame.reads⟩, frame.fields, hsreg, frame.hexInput,
    frame.hexOutput, frame.datapath, frame.draws⟩

/-! ## The frame in the window's bytes (rules R30, R31) -/

/-- S stands at offset 0x018 only (rule R30). -/
theorem eq_of_regAt_eq_s {o : Nat} (h : regAt o = .s) : o = 0x018 := by
  unfold regAt at h
  split_ifs at h
  assumption

/-- An aligned offset with a word of F[r] lies among the six words of F[r] (rule R30). -/
theorem mem_slot_of_regAt_eq_fword {o : Nat} {r : Reg} {j : Fin 6} (aligned : o % 8 = 0) (h : regAt o = .fword r j) :
    0x100 + 0x40 * r.val ≤ o ∧ o + 8 ≤ 0x130 + 0x40 * r.val := by
  unfold regAt at h
  split_ifs at h with _ _ _ _ slot word
  cases h
  simp only [Fin.val_ofNat]
  omega

/-- A command keeps what a register of the window reads as, unless it is the command's to write. -/
theorem exec_keeps_readReg {i : Instr} {s t : State} {reg : WindowReg} (h : exec i s = .next t)
    (notStatus : reg ≠ .status) (notS : reg = .s → mayWriteS i = false)
    (notDest : ∀ r j, reg = .fword r j → destOf i ≠ some r) :
    t.readReg reg = s.readReg reg := by
  have frame := exec_writesOnlyOwnState h
  cases reg with
  | cmd | reserved => rfl
  | status => exact absurd rfl notStatus
  | x => exact frame.x
  | s => exact (exec_keeps_status_and_s h).2.2 (notS rfl)
  | fword r j => exact congrArg (elemWord · j) (frame.fields r (notDest r j rfl))

/-- Settles O7: a byte is a lane of the register at the aligned offset below it, which is none of those written. -/
theorem commandsKeepOtherWindowBytes : Obligations.CommandsKeepOtherWindowBytes := by
  intro i s t a h notDest notStatus notS
  refine congrArg (BitVec.extractLsb' (8 * (a % 8)) 8) (exec_keeps_readReg h (fun status => ?_) (fun scalar => ?_)
    fun r j word dest => ?_)
  · have place := regAt_eq_status_iff.mp status
    omega
  · have place := eq_of_regAt_eq_s scalar
    rw [← Bool.not_eq_true]
    intro writes
    have outside := notS writes
    omega
  · have slot := mem_slot_of_regAt_eq_fword (by omega) word
    have outside := notDest r dest
    omega

end Sys2Proof.Machine

namespace Sys2Proof.Machine

/-! ## Reset (rules R28, R108) -/

/-- While reset is asserted every access is refused, under this name (rule R108). -/
theorem State.access_of_inReset {s : State} (asserted : s.inReset = true) (addr : HostAddr) (size : Nat)
    (effect : WindowReg → State) : s.access addr size effect = .refused .accessDuringReset := if_pos asserted

/-- While reset is asserted the engine takes no step (rule R108). -/
theorem engineStep_of_inReset {s : State} (asserted : s.inReset = true) : engineStep s = .next s := if_pos asserted

/-- The step on an asserting edge (rule R108). -/
theorem step_resetAssert {s : State} {rest : List Input} (hin : s.inputs = .resetAssert :: rest) :
    step s = .next ({ s with inputs := rest }.applyReset true) := step_of_inputs hin

/-- The step on a releasing edge (rule R108). -/
theorem step_resetRelease {s : State} {rest : List Input} (hin : s.inputs = .resetRelease :: rest)
    (asserted : s.inReset = true) : step s = .next ({ s with inputs := rest }.applyReset false) := by
  simp only [step_of_inputs hin, inputStep, asserted, if_true]

/-- Settles O2: the two edges by their steps, the rest by what the level of the reset input decides. -/
theorem resetInputClearsTheBlock : Obligations.ResetInputClearsTheBlock :=
  ⟨fun _ _ hin => ⟨_, step_resetAssert hin, rfl, rfl, rfl, rfl⟩,
    fun _ _ hin asserted => ⟨_, step_resetRelease hin asserted, rfl, rfl, rfl, rfl⟩,
    fun _ addr size _ asserted =>
      ⟨State.access_of_inReset asserted addr size _, State.access_of_inReset asserted addr size _⟩,
    fun _ asserted => engineStep_of_inReset asserted⟩

/-! ## The invariant (rules R16, R20, R23, R24, R108) -/

/-- An edge of the reset input leads to a state that meets the invariant, whatever was before. -/
theorem State.inv_applyReset (s : State) (level : Bool) : (s.applyReset level).Inv where
  err := Nat.zero_le 3
  output := .inl ⟨rfl, rfl⟩
  pointer := BitVec.le_refl _
  input _ := rfl
  scalar := Nat.zero_le 0x66
  inReset asserted := by
    cases level
    · cases asserted
    · rfl

/-- Settles O3: the reset state is what a releasing edge leaves of itself. -/
theorem resetMeetsTheInvariant : Obligations.ResetMeetsTheInvariant := State.inv_applyReset State.reset false

/-- The invariant does not speak of the inputs. -/
theorem State.Inv.withInputs {s : State} (h : s.Inv) (inputs : List Input) : { s with inputs := inputs }.Inv where
  err := h.err
  output := h.output
  pointer := h.pointer
  input := h.input
  scalar := h.scalar
  inReset asserted := congrArg (fun u : State => { u with inputs := inputs }) (h.inReset asserted)

/-- With reset released the invariant speaks of ERR, S and the hex registers only. -/
theorem State.Inv.of_same_results {s t : State} (h : s.Inv) (released : t.inReset = false) (err : t.err = s.err)
    (sreg : t.sreg = s.sreg) (input : t.hin = s.hin ∧ t.hany = s.hany)
    (output : t.hoval = s.hoval ∧ t.holen = s.holen ∧ t.hoptr = s.hoptr) : t.Inv := by
  obtain ⟨hin, hany⟩ := input
  obtain ⟨hoval, holen, hoptr⟩ := output
  exact {
    err := err ▸ h.err
    output := by rw [hoval, holen]; exact h.output
    pointer := by rw [hoptr, holen]; exact h.pointer
    input := by rw [hin, hany]; exact h.input
    scalar := sreg ▸ h.scalar
    inReset := fun asserted => absurd (released.symm.trans asserted) (by decide) }

/-- A host read keeps the invariant: it changes no register (rule R33). -/
theorem State.Inv.hostRead {s : State} (h : s.Inv) (released : s.inReset = false) (reg : WindowReg) :
    (s.hostRead reg).Inv := by
  rcases s.hostRead_cases reg with ⟨e, -⟩ | ⟨e, -⟩ <;> rw [e] <;>
    exact h.of_same_results released rfl rfl ⟨rfl, rfl⟩ ⟨rfl, rfl, rfl⟩

/-- A host write keeps the invariant: no register it speaks of is the host's to write (rules R34 to R40). -/
theorem State.Inv.hostWrite {s : State} (h : s.Inv) (released : s.inReset = false) (reg : WindowReg) (v : Word64) :
    (s.hostWrite reg v).Inv := by
  rcases s.hostWrite_cases reg v with e | ⟨e, -⟩ | ⟨-, e⟩ | ⟨-, ⟨-, e⟩ | ⟨-, e⟩ | ⟨r, j, -, e⟩⟩ <;> rw [e] <;>
    exact h.of_same_results released rfl rfl ⟨rfl, rfl⟩ ⟨rfl, rfl, rfl⟩

/-- A bit in S is at most 1 (rules R59, R81). -/
theorem toNat_scalarOfBool_le (b : Bool) : (scalarOfBool b).toNat ≤ 1 := by
  cases b <;> decide

/-- A character put out is at most 'f' (rule R85). -/
theorem toNat_hexChar_le (upper : Bool) (v : BitVec 4) : (hexChar upper v).toNat ≤ 0x66 := by
  have digit := v.isLt
  rw [toNat_hexChar]
  split_ifs <;> omega

/-- What a command puts in S is a bit, a length or a character (rule R16). -/
theorem exec_scalar_le {i : Instr} {s t : State} (h : exec i s = .next t) (before : s.sreg.toNat ≤ 0x66) :
    t.sreg.toNat ≤ 0x66 := by
  cases i with
  | eq | trace =>
    cases h
    exact (toNat_scalarOfBool_le _).trans (by decide)
  | tohex rs1 =>
    cases (exec_tohex rs1 s).symm.trans h
    exact (toNat_ofNat_nlen _ (by decide)).trans_le ((nlen_le _).trans (by decide))
  | hexget =>
    by_cases hl : s.hoptr < s.holen
    · cases (exec_hexget_of_lt hl).symm.trans h
      exact (BitVec.toNat_setWidth_of_le (by decide)).trans_le (toNat_hexChar_le _ _)
    · cases (exec_hexget_of_not_lt hl).symm.trans h
      exact Nat.zero_le _
  | zero | one | mov | add | mul | sqr | powx | powf | inv | hexb | hexput | hexe =>
    rw [(exec_keeps_status_and_s h).2.2 rfl]
    exact before

/-- A command keeps HIN zero where no digit has been received (rules R23, R90, R92). -/
theorem exec_hexInput {i : Instr} {s t : State} (h : exec i s = .next t) (before : s.hany = false → s.hin = 0) :
    t.hany = false → t.hin = 0 := by
  cases i with
  | hexb =>
    cases (exec_hexb s).symm.trans h
    exact fun _ => rfl
  | hexput c =>
    cases hv : digitValue c with
    | none =>
      cases (exec_hexput_of_invalid s hv).symm.trans h
      exact before
    | some v =>
      cases (exec_hexput_of_valid s hv).symm.trans h
      exact fun none => nomatch none
  | hexe => exact fun _ => (exec_hexe_clears_input h).1
  | zero | one | mov | eq | add | mul | sqr | powx | powf | inv | trace | tohex | hexget =>
    obtain ⟨hin, hany, -⟩ := (exec_writesOnlyOwnState h).hexInput rfl
    rw [hin, hany]
    exact before

/-- A command keeps the hex output empty or the string of an element, with HOPTR at most HOLEN (rules R24, R93, R94). -/
theorem exec_hexOutput {i : Instr} {s t : State} (h : exec i s = .next t)
    (output : (s.holen = 0 ∧ s.hoval = 0) ∨ s.holen.toNat = nlen s.hoval) (pointer : s.hoptr ≤ s.holen) :
    ((t.holen = 0 ∧ t.hoval = 0) ∨ t.holen.toNat = nlen t.hoval) ∧ t.hoptr ≤ t.holen := by
  cases i with
  | tohex rs1 =>
    cases (exec_tohex rs1 s).symm.trans h
    exact ⟨.inr (toNat_ofNat_nlen _ le_rfl), BitVec.le_def.mpr (Nat.zero_le _)⟩
  | hexget =>
    by_cases hl : s.hoptr < s.holen
    · cases (exec_hexget_of_lt hl).symm.trans h
      exact ⟨output, by show s.hoptr + 1 ≤ s.holen; bv_omega⟩
    · cases (exec_hexget_of_not_lt hl).symm.trans h
      exact ⟨output, pointer⟩
  | zero | one | mov | eq | add | mul | sqr | powx | powf | inv | trace | hexb | hexput | hexe =>
    obtain ⟨hoval, holen, hoptr⟩ := (exec_writesOnlyOwnState h).hexOutput rfl
    rw [hoval, holen, hoptr]
    exact ⟨output, pointer⟩

/-- A command executed with reset released keeps the invariant. -/
theorem State.Inv.exec {i : Instr} {s t : State} (h : s.Inv) (released : s.inReset = false) (he : exec i s = .next t) :
    t.Inv where
  err := by rcases exec_err_eq he with err | err | err <;> simp [err]
  output := (exec_hexOutput he h.output h.pointer).1
  pointer := (exec_hexOutput he h.output h.pointer).2
  input := exec_hexInput he h.input
  scalar := exec_scalar_le he h.scalar
  inReset asserted := by simp [(exec_writesOnlyOwnState he).inReset, released] at asserted

/-- The engine's turn keeps the invariant: it waits, or reports an illegal word, or executes a command. -/
theorem State.Inv.engineStep {s t : State} (h : s.Inv) (he : engineStep s = .next t) : t.Inv := by
  rcases engineStep_cases s with ⟨idle, -⟩ | ⟨w, released, -, runs⟩
  · cases idle.symm.trans he
    exact h
  · rcases executeWord_next (runs ▸ he) with ⟨-, rfl⟩ | ⟨i, u, -, hu, rfl⟩
    · have code : CoreError.illegalCommand.code.toNat ≤ 3 := by decide
      exact ⟨code, h.output, h.pointer, h.input, h.scalar, fun asserted => by simp [released] at asserted⟩
    · have releasedu := (exec_writesOnlyOwnState hu).inReset.trans released
      exact (h.exec released hu).of_same_results releasedu rfl rfl ⟨rfl, rfl⟩ ⟨rfl, rfl, rfl⟩

/-- Settles O4: every case of `step_next` is an access, the engine's turn or an edge of the reset input. -/
theorem stepKeepsTheInvariant : Obligations.StepKeepsTheInvariant := by
  intro s t h hs
  rcases step_next hs with ⟨-, engine⟩ | ⟨i, rest, -, hc⟩
  · exact h.engineStep engine
  have next := h.withInputs rest
  rcases hc with ⟨addr, size, v, -, write⟩ | ⟨addr, size, -, read⟩ | ⟨-, -, -, engine⟩ | ⟨-, -, read⟩ | ⟨-, engine⟩ |
    ⟨-, rfl⟩ | ⟨-, -, rfl⟩ | ⟨-, -, rfl⟩
  · obtain ⟨released, -, o, -, -, rfl⟩ := State.access_next write
    exact next.hostWrite released (regAt o) v
  · obtain ⟨released, -, o, -, -, rfl⟩ := State.access_next read
    exact next.hostRead released (regAt o)
  · exact h.engineStep engine
  · obtain ⟨released, -, o, -, -, rfl⟩ := State.access_next read
    exact next.hostRead released (regAt o)
  · exact next.engineStep engine
  · exact State.inv_applyReset _ true
  · exact State.inv_applyReset _ false
  · exact next

end Sys2Proof.Machine

namespace Sys2Proof

/-! ## Words and fields (rules R45 to R47) -/

/-- The word with an opcode and operand fields, Z being zero (rule R45). -/
def Fields.pack (op : BitVec 8) (k : Fields) : Word32 := packWord op k.rd k.rs1 k.rs2 k.imm8

/-- The fields a format uses, and zero in the others (rule R47). -/
def Fields.usedBy (fmt : Format) (k : Fields) : Fields where
  rd := if fmt.usesRd then k.rd else 0
  rs1 := if fmt.usesRs1 then k.rs1 else 0
  rs2 := if fmt.usesRs2 then k.rs2 else 0
  imm8 := if fmt.usesImm8 then k.imm8 else 0

/-- The fields of a packed word are those packed (rules R45, R46). -/
@[simp] theorem fieldsOf_pack (op : BitVec 8) (k : Fields) : fieldsOf (k.pack op) = k := by
  obtain ⟨rd, rs1, rs2, imm8⟩ := k
  have value := Laws.packWord_toNat op rd rs1 rs2 imm8
  have hrd := rd.isLt
  have h1 := rs1.isLt
  have h2 := rs2.isLt
  simp only [Fields.pack, fieldsOf, regField, Fields.mk.injEq, Fin.ext_iff, Fin.val_ofNat, BitVec.toNat_eq,
    BitVec.toNat_setWidth, value]
  omega

/-- A word whose Z is zero is packed from its opcode and its fields (rules R45, R46). -/
theorem pack_fieldsOf {w : Word32} (z : zFieldOk w = true) : (fieldsOf w).pack (w.extractLsb' 24 8) = w := by
  have zero : w.toNat / 2 ^ 8 % 16 = 0 := beq_iff_eq.mp z
  have small := w.isLt
  apply BitVec.eq_of_toNat_eq
  simp only [Fields.pack, Laws.packWord_toNat, fieldsOf, regField, Fin.val_ofNat, BitVec.toNat_setWidth,
    BitVec.extractLsb'_toNat, Nat.shiftRight_eq_div_pow]
  omega

/-- A field that is kept where it is used is kept in any case exactly if it is used or zero. -/
theorem ite_used_eq_self_iff {α : Type} [OfNat α 0] (used : Bool) (a : α) :
    (if used then a else 0) = a ↔ used = true ∨ a = 0 := by
  cases used <;> simp [eq_comm]

theorem regField_eq_zero_iff (lo : Nat) (w : Word32) : regField lo w = 0 ↔ w.toNat / 2 ^ lo % 16 = 0 := by
  simp [regField, Fin.ext_iff]

theorem setWidth_eight_eq_zero_iff (w : Word32) : w.setWidth 8 = (0 : Byte) ↔ w.toNat % 256 = 0 := by
  simp [BitVec.toNat_eq]

/-- The fields a format does not use are zero exactly if Z is and no operand is lost by keeping the used ones only. -/
theorem unusedFieldsZero_iff (fmt : Format) (w : Word32) :
    fmt.unusedFieldsZero w = true ↔ (fieldsOf w).usedBy fmt = fieldsOf w ∧ zFieldOk w = true := by
  simp only [Format.unusedFieldsZero, rdFieldOk, rs1FieldOk, rs2FieldOk, imm8FieldOk, Bool.and_eq_true, Bool.or_eq_true,
    beq_iff_eq, Fields.usedBy, fieldsOf, Fields.mk.injEq, ite_used_eq_self_iff, regField_eq_zero_iff,
    setWidth_eight_eq_zero_iff]
  tauto

/-- Z is zero in a packed word (rule R45). -/
@[simp] theorem zFieldOk_pack (op : BitVec 8) (k : Fields) : zFieldOk (k.pack op) = true := by
  have hi := k.imm8.isLt
  have zero : (k.pack op).toNat / 2 ^ 8 % 16 = 0 := by
    rw [Fields.pack, Laws.packWord_toNat]
    omega
  exact beq_iff_eq.mpr zero

@[simp] theorem usedBy_usedBy (fmt : Format) (k : Fields) : (k.usedBy fmt).usedBy fmt = k.usedBy fmt := by
  cases fmt <;> rfl

/-! ## Encoding against the rows (rules R47 to R49) -/

/-- Every command is a row's, made from some fields (rule R48). -/
theorem exists_row_of_instr (i : Instr) : ∃ row ∈ rows, ∃ k, row.command k = i := by
  cases i with
  | zero rd => exact ⟨rows[0], by simp [rows], ⟨rd, 0, 0, 0⟩, rfl⟩
  | one rd => exact ⟨rows[1], by simp [rows], ⟨rd, 0, 0, 0⟩, rfl⟩
  | mov rd rs1 => exact ⟨rows[2], by simp [rows], ⟨rd, rs1, 0, 0⟩, rfl⟩
  | eq rs1 rs2 => exact ⟨rows[3], by simp [rows], ⟨0, rs1, rs2, 0⟩, rfl⟩
  | add rd rs1 rs2 => exact ⟨rows[4], by simp [rows], ⟨rd, rs1, rs2, 0⟩, rfl⟩
  | mul rd rs1 rs2 => exact ⟨rows[5], by simp [rows], ⟨rd, rs1, rs2, 0⟩, rfl⟩
  | sqr rd rs1 => exact ⟨rows[6], by simp [rows], ⟨rd, rs1, 0, 0⟩, rfl⟩
  | powx rd rs1 => exact ⟨rows[7], by simp [rows], ⟨rd, rs1, 0, 0⟩, rfl⟩
  | powf rd rs1 rs2 => exact ⟨rows[8], by simp [rows], ⟨rd, rs1, rs2, 0⟩, rfl⟩
  | inv rd rs1 => exact ⟨rows[9], by simp [rows], ⟨rd, rs1, 0, 0⟩, rfl⟩
  | trace rs1 => exact ⟨rows[10], by simp [rows], ⟨0, rs1, 0, 0⟩, rfl⟩
  | hexb => exact ⟨rows[11], by simp [rows], ⟨0, 0, 0, 0⟩, rfl⟩
  | hexput imm8 => exact ⟨rows[12], by simp [rows], ⟨0, 0, 0, imm8⟩, rfl⟩
  | hexe rd => exact ⟨rows[13], by simp [rows], ⟨rd, 0, 0, 0⟩, rfl⟩
  | tohex rs1 => exact ⟨rows[14], by simp [rows], ⟨0, rs1, 0, 0⟩, rfl⟩
  | hexget => exact ⟨rows[15], by simp [rows], ⟨0, 0, 0, 0⟩, rfl⟩

/-- A row's command is made from the fields of its format (rules R47, R48). -/
theorem command_usedBy {row : Row} (hrow : row ∈ rows) (k : Fields) :
    row.command (k.usedBy row.format) = row.command k := by
  revert row
  simp [rows, Fields.usedBy, Format.usesRd, Format.usesRs1, Format.usesRs2, Format.usesImm8]

/-- A row's command is encoded as the row's opcode and the fields its format uses (rules R45, R47, R48). -/
theorem encode_command {row : Row} (hrow : row ∈ rows) (k : Fields) :
    encode (row.command k) = (k.usedBy row.format).pack row.opcode := by
  revert row
  simp [rows, encode, Fields.pack, Fields.usedBy, Format.usesRd, Format.usesRs1, Format.usesRs2, Format.usesImm8,
    Row.opcode]

/-- A word that a row matches is packed from the row's opcode and the fields its format uses (rules R45, R49). -/
theorem pack_usedBy_fieldsOf {row : Row} {w : Word32} (hrow : row ∈ rows) (matched : w &&& row.format.mask = row.bits) :
    ((fieldsOf w).usedBy row.format).pack row.opcode = w := by
  obtain ⟨opcode, unused⟩ := (and_mask_eq_bits_iff hrow w).mp matched
  obtain ⟨used, z⟩ := (unusedFieldsZero_iff row.format w).mp unused
  rw [used, ← opcode, pack_fieldsOf z]

/-- A row matches the words of its commands (rule R49). -/
theorem encode_command_and_mask {row : Row} (hrow : row ∈ rows) (k : Fields) :
    encode (row.command k) &&& row.format.mask = row.bits := by
  refine (and_mask_eq_bits_iff hrow _).mpr ⟨encode_command_opcode hrow k, ?_⟩
  rw [encode_command hrow, unusedFieldsZero_iff, fieldsOf_pack]
  exact ⟨usedBy_usedBy _ k, zFieldOk_pack _ _⟩

/-- Settles O21: the command's row matches its word, whose fields make the command again. -/
theorem decodeOfEncodeIsTheCommand : Obligations.DecodeOfEncodeIsTheCommand := by
  intro i
  obtain ⟨row, hrow, k, rfl⟩ := exists_row_of_instr i
  rw [decode_of_and_mask_eq_bits hrow (encode_command_and_mask hrow k), encode_command hrow, fieldsOf_pack,
    command_usedBy hrow]

/-- Settles O22: the row that matched the word encodes its command as the word's own opcode and fields. -/
theorem encodeOfDecodeIsTheWord : Obligations.EncodeOfDecodeIsTheWord := by
  intro w i decoded
  obtain ⟨row, hrow, matched, rfl⟩ := exists_row_of_decode_eq_some decoded
  rw [encode_command hrow, pack_usedBy_fieldsOf hrow matched]

/-- Settles O23: eleven of the words encode the commands of the table, which decoding gives back; the other two have no
row. -/
theorem exampleWordsDecode : Obligations.ExampleWordsDecode :=
  ⟨decodeOfEncodeIsTheCommand (.zero 5), decodeOfEncodeIsTheCommand (.mov 2 9), decodeOfEncodeIsTheCommand (.eq 3 4),
    decodeOfEncodeIsTheCommand (.mul 3 1 2), decodeOfEncodeIsTheCommand (.sqr 15 15),
    decodeOfEncodeIsTheCommand (.powf 4 1 2), decodeOfEncodeIsTheCommand (.inv 6 1),
    decodeOfEncodeIsTheCommand (.trace 7), decodeOfEncodeIsTheCommand (.hexput 0x61),
    decodeOfEncodeIsTheCommand (.hexe 8), decodeOfEncodeIsTheCommand .hexget, by decide, by decide⟩

end Sys2Proof

namespace Sys2Proof.Machine

/-! ## A streamed string (rules R87, R90 to R92) -/

/-- A list of commands run up to a state hands it to the commands after it. -/
theorem runCommands_append {is : List Instr} {s t : State} (h : runCommands is s = .next t) (js : List Instr) :
    runCommands (is ++ js) s = runCommands js t := by
  induction is generalizing s with
  | nil => cases h; rfl
  | cons i is ih =>
    obtain ⟨u, hu⟩ := exists_exec i s
    rw [runCommands_cons hu] at h
    rw [List.cons_append, runCommands_cons hu, ih h]

/-- HEXPUTs write no field register; with no characters they change nothing; an invalid character among theirs, or
before them, leaves HBAD at 1 (rule R90). -/
theorem exists_runCommands_hexput (cs : List Byte) (s : State) :
    ∃ t, runCommands (cs.map .hexput) s = .next t ∧ t.f = s.f ∧ (cs = [] → t = s) ∧
      (s.hbad = true ∨ (∃ c ∈ cs, digitValue c = none) → t.hbad = true) := by
  induction cs generalizing s with
  | nil => exact ⟨s, rfl, rfl, fun _ => rfl, by simp⟩
  | cons c cs ih =>
    cases hc : digitValue c with
    | some v =>
      obtain ⟨t, run, f, -, bad⟩ := ih { s with hin := hornerStep s.hin v, hany := true }.complete
      refine ⟨t, (runCommands_cons (exec_hexput_of_valid s hc) _).trans run, f, nofun, ?_⟩
      rintro (before | ⟨d, hd, invalid⟩)
      · exact bad (.inl before)
      · rcases List.mem_cons.mp hd with rfl | hd
        · exact absurd (hc.symm.trans invalid) nofun
        · exact bad (.inr ⟨d, hd, invalid⟩)
    | none =>
      obtain ⟨t, run, f, -, bad⟩ := ih ({ s with hbad := true }.raise .malformedInput)
      exact ⟨t, (runCommands_cons (exec_hexput_of_invalid s hc) _).trans run, f, nofun, fun _ => bad (.inl rfl)⟩

/-- HEXB and the HEXPUTs of a string that is not well formed write no field register and leave a hex input that HEXE
rejects: no digit, or an invalid character (rules R87, R92). -/
theorem runCommands_hexb_hexput_of_malformed {cs : List Byte} (s : State) (malformed : ¬ HexWellFormed cs) :
    ∃ t, runCommands (.hexb :: cs.map .hexput) s = .next t ∧ t.f = s.f ∧ (t.hbad = true ∨ t.hany = false) := by
  obtain ⟨t, run, f, empty, bad⟩ := exists_runCommands_hexput cs s.clearHexInput.complete
  refine ⟨t, (runCommands_cons (exec_hexb s) _).trans run, f, ?_⟩
  by_cases noChars : cs = []
  · exact .inr (empty noChars ▸ rfl)
  · have invalid : ∃ c ∈ cs, digitValue c = none := by
      by_contra valid
      exact malformed ⟨noChars, fun c hc bad => valid ⟨c, hc, bad⟩⟩
    exact .inl (bad (.inr invalid))

/-- Settles O52: HEXE writes the value that a well-formed string leaves in HIN, and rejects what any other leaves. -/
theorem hexStringIsParsedOrRejected : Obligations.HexStringIsParsedOrRejected := by
  intro cs rd s
  by_cases wellFormed : HexWellFormed cs
  · obtain ⟨g, value, run⟩ := runCommands_hexb_hexput s wellFormed
    have parsed :=
      exec_hexe_of_wellFormed (s := { s with hin := g, hany := true, hbad := false, err := 0 }) rd (by simp)
    refine ⟨_, (runCommands_append run _).trans (runCommands_cons parsed []), rfl, rfl, rfl, fun _ => ⟨?_, rfl, ?_⟩,
      fun malformed => absurd wellFormed malformed⟩
    · rw [State.readF_complete, State.readF_clearHexInput, State.readF_writeF_same]
      exact value
    · intro r different
      rw [State.readF_complete, State.readF_clearHexInput, State.readF_writeF_other _ _ _ _ different]
      rfl
  · obtain ⟨t, run, f, rejected⟩ := runCommands_hexb_hexput_of_malformed s wellFormed
    exact ⟨_, (runCommands_append run _).trans (runCommands_cons (exec_hexe_of_malformed rd rejected) []), rfl, rfl,
      rfl, fun wf => absurd wf wellFormed, fun _ => ⟨f, rfl⟩⟩

end Sys2Proof.Machine

namespace Sys2Proof.Machine

/-! ## Two CMD writes without a POLL (rules R34, R40; program P7) -/

/-- A command does not look at the inputs: it does the same with others. -/
theorem exec_with_inputs {i : Instr} {s t : State} (inputs : List Input) (h : exec i s = .next t) :
    exec i { s with inputs := inputs } = .next { t with inputs := inputs } := by
  cases i with
  | inv rd rs1 =>
    by_cases hz : s.readF rs1 = 0
    · cases (exec_inv_of_zero rd hz).symm.trans h
      exact exec_inv_of_zero rd hz
    · cases (exec_inv_of_ne_zero rd hz).symm.trans h
      exact exec_inv_of_ne_zero rd hz
  | hexput c =>
    cases hv : digitValue c with
    | none =>
      cases (exec_hexput_of_invalid s hv).symm.trans h
      exact exec_hexput_of_invalid _ hv
    | some v =>
      cases (exec_hexput_of_valid s hv).symm.trans h
      exact exec_hexput_of_valid _ hv
  | hexe rd =>
    by_cases hm : s.hbad = true ∨ s.hany = false
    · cases (exec_hexe_of_malformed rd hm).symm.trans h
      exact exec_hexe_of_malformed rd hm
    · cases (exec_hexe_of_wellFormed rd hm).symm.trans h
      exact exec_hexe_of_wellFormed rd hm
  | hexget =>
    by_cases hl : s.hoptr < s.holen
    · cases (exec_hexget_of_lt hl).symm.trans h
      exact exec_hexget_of_lt hl
    · cases (exec_hexget_of_not_lt hl).symm.trans h
      exact exec_hexget_of_not_lt hl
  | zero | one | mov | eq | add | mul | sqr | powx | powf | trace | hexb | tohex =>
    cases h
    rfl

/-- A latched word, legal or not, does the same with other inputs. -/
theorem executeWord_with_inputs {w : Word32} {s t : State} (inputs : List Input) (h : executeWord w s = .next t) :
    executeWord w { s with inputs := inputs } = .next { t with inputs := inputs } := by
  rcases executeWord_next h with ⟨hd, rfl⟩ | ⟨i, u, hd, hu, rfl⟩
  · exact executeWord_of_illegal _ hd
  · exact executeWord_of_exec hd (exec_with_inputs inputs hu)

/-- A latched word leaves the inputs and the reset input alone. -/
theorem executeWord_keeps_inputs {w : Word32} {s t : State} (h : executeWord w s = .next t) :
    t.inputs = s.inputs ∧ t.inReset = s.inReset := by
  rcases executeWord_next h with ⟨-, rfl⟩ | ⟨i, u, -, hu, rfl⟩
  · exact ⟨rfl, rfl⟩
  · have frame := exec_writesOnlyOwnState hu
    exact ⟨frame.inputs, frame.inReset⟩

/-- The step of a write to CMD is that write, on the state with the rest of the inputs (rules R30, R34). -/
theorem step_cmd_write {s : State} {v : Word64} {rest : List Input}
    (hin : s.inputs = .write (.window 0x000) 8 v :: rest) (released : s.inReset = false) :
    step s = .next ({ s with inputs := rest }.hostWrite .cmd v) := by
  rw [step_of_inputs hin]
  exact State.access_of_defined (addr := .window 0x000) (o := 0x000)
    (fun reg => { s with inputs := rest }.hostWrite reg v) released rfl rfl

/-- A write to CMD that finds PEND empty is latched by its step (rule R34). -/
theorem step_cmd_write_of_idle {s : State} {v : Word64} {rest : List Input}
    (hin : s.inputs = .write (.window 0x000) 8 v :: rest) (released : s.inReset = false) (idle : s.pend = none) :
    step s = .next { s with inputs := rest, pend := some (v.extractLsb' 0 32) } := by
  rw [step_cmd_write hin released, State.hostWrite_cmd_of_idle (s := { s with inputs := rest }) idle]

/-- A write to CMD that finds PEND full is dropped by its step, and OVR set (rule R40). -/
theorem step_cmd_write_of_latched {s : State} {v : Word64} {rest : List Input} {w : Word32}
    (hin : s.inputs = .write (.window 0x000) 8 v :: rest) (released : s.inReset = false) (latched : s.pend = some w) :
    step s = .next { s with inputs := rest, ovr := true } := by
  have busy : { s with inputs := rest }.busy = true := by simp [State.busy, latched]
  rw [step_cmd_write hin released, State.hostWrite_of_busy v busy (.inl rfl)]
  rfl

/-- Settles O60: the first word is latched; then the engine executes it and the second is latched, or the second is
dropped. -/
theorem overrunRaceAdmitsBothSchedules : Obligations.OverrunRaceAdmitsBothSchedules := by
  intro s v w idle released
  constructor
  · intro t runs
    have level : t.inReset = false := (executeWord_keeps_inputs runs).2.trans released
    have noInputs : t.inputs = [] := (executeWord_keeps_inputs runs).1
    have latched : step { s with inputs := [.write (.window 0x000) 8 v, .engineTurn, .write (.window 0x000) 8 w] } =
        .next { s with inputs := [.engineTurn, .write (.window 0x000) 8 w], pend := some (v.extractLsb' 0 32) } :=
      step_cmd_write_of_idle rfl released idle
    have executed :
        step { s with inputs := [.engineTurn, .write (.window 0x000) 8 w], pend := some (v.extractLsb' 0 32) } =
          .next { t with inputs := [.write (.window 0x000) 8 w] } :=
      (engineStep_of_latched (s := { s with inputs := _, pend := some _ }) rfl released).trans
        (executeWord_with_inputs [.write (.window 0x000) 8 w] runs)
    have latchedAgain : step { t with inputs := [.write (.window 0x000) 8 w] } =
        .next { t with pend := some (w.extractLsb' 0 32) } := by
      rw [noInputs]
      exact step_cmd_write_of_idle rfl level (executeWord_pend runs :)
    exact (core_run_succ latched 2).trans
      ((core_run_succ executed 1).trans (core_run_succ latchedAgain 0))
  · have latched : step { s with inputs := [.write (.window 0x000) 8 v, .write (.window 0x000) 8 w] } =
        .next { s with inputs := [.write (.window 0x000) 8 w], pend := some (v.extractLsb' 0 32) } :=
      step_cmd_write_of_idle rfl released idle
    have dropped : step { s with inputs := [.write (.window 0x000) 8 w], pend := some (v.extractLsb' 0 32) } =
        .next { s with inputs := [], pend := some (v.extractLsb' 0 32), ovr := true } :=
      step_cmd_write_of_latched rfl released rfl
    exact (core_run_succ latched 1).trans (core_run_succ dropped 0)

end Sys2Proof.Machine
